-- ==== Sys2Proof/Word.lean ====
section
/-! DEFINITION. The widths of the FCE's data (00_scope.md R5). All values are unsigned (R6). -/

namespace Sys2Proof

/-- A 4-bit value, domain 0 to 15 (R5, NIBBLE_BITS). -/
abbrev Nibble := BitVec 4

/-- An 8-bit value: a round key or one half of a block (R5, ROUND_KEY_BITS). -/
abbrev Byte := BitVec 8

/-- A byte-block: a key, a data block, a chaining value or a digest (R5, BLOCK_BITS). -/
abbrev Block := BitVec 16

/-- A window register or a command word (R5, REG_BITS; R90). -/
abbrev Word := BitVec 32

/-- A byte offset inside the 64-byte register window (R5, WINDOW_BYTES; R61). -/
abbrev Offset := BitVec 6

end Sys2Proof
end

