-- ==== Sys2Proof/Syntax.lean ====
section
/-! DEFINITION. The commands of the FCE, one constructor for each row of spec/opcode_table.json
(30_encoding.md R91). A command carries no operand (R92): the operands are the snapshot of DIN and
KIN in PEND. -/

namespace Sys2Proof

/-- A command. `illegal c` is the table's row "(illegal)": the word `c` is accepted like any other
and completes with INVALID_COMMAND (R94). -/
inductive Instr where
  | nop
  | loadKey
  | deleteKey
  | encrypt
  | decrypt
  | compress
  | sbox
  | illegal (c : Word)
  deriving DecidableEq, Repr

end Sys2Proof
end

