-- ==== Sys2Proof/WellFormed.lean ====
section
/-! DEFINITION. Which terms of `Instr` are commands: the word an `illegal` carries must be illegal
(30_encoding.md R93). -/

namespace Sys2Proof

/-- A command word is legal when its reserved bits are 0 and its opcode is at most 6 (R93). -/
def legalWord (c : Word) : Bool :=
  c.extractLsb' 4 28 == 0 && decide (c.extractLsb' 0 4 ≤ 6)

/-- The seven named commands are well formed; `illegal c` is so when `c` is an illegal word. -/
def Instr.wellFormed : Instr → Bool
  | .nop => true
  | .loadKey => true
  | .deleteKey => true
  | .encrypt => true
  | .decrypt => true
  | .compress => true
  | .sbox => true
  | .illegal c => !legalWord c

end Sys2Proof
end

