-- ==== Sys2Proof/Decode.lean ====
section
/-! DEFINITION. Decoding of a command word, and the encoder (30_encoding.md R90, R91, R93, R94).
Every 32-bit word decodes: an illegal one to `illegal`. What the decoder rejects, by name, is a
transfer that is too short to be a word. -/

namespace Sys2Proof

/-- The field OP of a command word (R90). -/
def opField (c : Word) : Nibble := c.extractLsb' 0 4

/-- The field RSVD of a command word (R90). -/
def rsvdField (c : Word) : BitVec 28 := c.extractLsb' 4 28

/-- The command a word stands for (R91; the legality check and the case of R105). -/
def decodeWord (c : Word) : Instr :=
  if rsvdField c = 0 then
    match (opField c).toNat with
    | 0x0 => .nop
    | 0x1 => .loadKey
    | 0x2 => .deleteKey
    | 0x3 => .encrypt
    | 0x4 => .decrypt
    | 0x5 => .compress
    | 0x6 => .sbox
    | _ => .illegal c
  else .illegal c

/-- A word from its four byte lanes, lane 0 in bits [7:0] (R63). -/
def wordOfLanes (b0 b1 b2 b3 : Byte) : Word := b3 ++ b2 ++ b1 ++ b0

/-- The byte lanes of a word, lane 0 first (R63). -/
def lanesOfWord (w : Word) : List Byte :=
  [w.extractLsb' 0 8, w.extractLsb' 8 8, w.extractLsb' 16 8, w.extractLsb' 24 8]

/-- Why the decoder rejects a sequence of byte lanes. -/
inductive DecodeError where
  /-- Fewer than the four lanes of the one 32-bit write that carries a command (R95). Safe: the bus
  answers such a write with a bus error and no command is issued (R62). -/
  | notAWholeWord
  deriving DecidableEq, Repr

/-- One command from a sequence of byte lanes, with the lanes that follow it. Every command is
exactly one 32-bit word (R90, R95). -/
def decodeLanes : List Byte → Except DecodeError (Instr × List Byte)
  | b0 :: b1 :: b2 :: b3 :: rest => .ok (decodeWord (wordOfLanes b0 b1 b2 b3), rest)
  | _ => .error .notAWholeWord

/-- The command word of a well-formed command (R91). -/
def encode : Instr → Word
  | .nop => 0x00000000#32
  | .loadKey => 0x00000001#32
  | .deleteKey => 0x00000002#32
  | .encrypt => 0x00000003#32
  | .decrypt => 0x00000004#32
  | .compress => 0x00000005#32
  | .sbox => 0x00000006#32
  | .illegal c => c

/-- The byte lanes of a command's word (R63, R95). -/
def encodeLanes (i : Instr) : List Byte := lanesOfWord (encode i)

/-- The command word whose low `nbits` bits are those of `w` and whose other bits are 0. -/
def tableWord (nbits w : Nat) : Word := BitVec.ofNat 32 (w % 2 ^ nbits)

/-- What the decoder reads from the lanes of that command word. -/
def decodeTableWord (nbits w : Nat) : Option Instr :=
  match decodeLanes (lanesOfWord (tableWord nbits w)) with
  | .ok (i, _) => some i
  | .error _ => none

end Sys2Proof
end

