-- ==== Sys2Proof/Machine/State.lean ====
section
/-! DEFINITION. The state of one FCE instance (10_state.md R38), and of its connection to the
outside: what happens next and what was answered on the bus. -/

namespace Sys2Proof.Machine

/-- Why a host access is answered with a fault. A fault is the answer to one access: it changes no
state of the FCE and does not stop the machine (notes/assumptions/2.md). -/
inductive Fault where
  /-- The bus error of an access that is not 32 bits wide or not at a multiple of 4 (20_memory.md
  R62). Raised by `Fce.memRead` and `Fce.memWrite`. Safe: no value is returned, also on a bus with
  no error response. -/
  | busError
  /-- An access while reset is asserted (70_reset_and_hazards.md R241). Raised by
  `State.serviceAccess`. Safe: the result is the platform's, and no value is returned. -/
  | accessDuringReset
  deriving DecidableEq, Repr

/-- Why the machine has no meaning for a command. -/
inductive Refusal where
  /-- Raised by an arm of `exec` whose command has no meaning yet. No arm is left so. Safe. -/
  | notModelled (mnemonic : String)
  deriving DecidableEq, Repr

/-- The errors a command can end with (60_exceptions.md R200). -/
inductive ErrorKind where
  | noKeyLoaded
  | invalidKey
  | invalidInput
  | invalidCommand
  deriving DecidableEq, Repr

/-- The round-key file RK[0..7], eight 8-bit registers (10_state.md R35). -/
structure RoundKeys where
  k0 : Byte
  k1 : Byte
  k2 : Byte
  k3 : Byte
  k4 : Byte
  k5 : Byte
  k6 : Byte
  k7 : Byte
  deriving DecidableEq, Repr

/-- The latched command word and the operand snapshot (10_state.md R37); meaningful only while
BUSY = 1. -/
structure Pend where
  pcmd : Word
  pdin : Block
  pkin : Block
  deriving DecidableEq, Repr

/-- The record of 10_state.md R38. -/
structure Fce where
  /-- LAST_CMD, the last accepted command word (R24). -/
  lastCmd : Word
  /-- STATUS[0] (R25). -/
  busy : Bool
  /-- STATUS[1] (R25). -/
  done : Bool
  /-- STATUS[2] (R25). -/
  err : Bool
  /-- STATUS[3] (R25). -/
  errAny : Bool
  /-- STATUS[7:4] (R25). -/
  errCode : BitVec 4
  /-- STATUS[8] (R25). -/
  keyValid : Bool
  /-- STATUS[9] (R25). -/
  overrun : Bool
  /-- IRQ_EN[0] (R26). -/
  doneIe : Bool
  /-- DIN[15:0] (R27). -/
  din : Block
  /-- KIN[15:0] (R28). -/
  kin : Block
  /-- DOUT[15:0] (R29). -/
  dout : Block
  /-- KEY[15:0] (R30). -/
  key : Block
  /-- RK[0..7] (R35). -/
  rk : RoundKeys
  /-- PEND (R37). -/
  pend : Pend
  deriving DecidableEq, Repr

/-- A host access: the offset in the window (20_memory.md R61), the width in bytes, and for a write
the 32-bit word. -/
inductive Access where
  | read (off : Offset) (n : Nat)
  | write (off : Offset) (n : Nat) (v : Word)
  deriving DecidableEq, Repr

/-- What the FCE answers to an access: the word read, the acceptance of a write, or a fault. -/
inductive Answer where
  | data (v : Word)
  | ack
  | fault (r : Fault)
  deriving DecidableEq, Repr

/-- One entry of the agenda: a host access arrives; the engine gets a turn; the reset input is
asserted or released. -/
inductive Event where
  | access (a : Access)
  | engine
  | reset (asserted : Bool)
  deriving DecidableEq, Repr

/-- One FCE instance and its connection to the outside. `agenda` and `answers` are the model's own
fields (notes/assumptions/1.md, notes/assumptions/9.md). -/
structure State where
  /-- The registers and the hidden state (R38). -/
  fce : Fce
  /-- Reset is asserted (70_reset_and_hazards.md R240, R241). -/
  inReset : Bool
  /-- What happens next, oldest first (00_scope.md R12; 20_memory.md R71). -/
  agenda : List Event
  /-- What was answered to each access so far, newest first. -/
  answers : List Answer
  deriving DecidableEq, Repr

/-- A round-key file of eight zero bytes. -/
def RoundKeys.zero : RoundKeys := ⟨0, 0, 0, 0, 0, 0, 0, 0⟩

/-- The registers at the end of reset (70_reset_and_hazards.md R240). DESIGN CHOICE: PEND, to which
the spec gives no value, is zero (notes/assumptions/3.md). -/
def Fce.reset : Fce where
  lastCmd := 0x00000000#32
  busy := false
  done := false
  err := false
  errAny := false
  errCode := 0x0#4
  keyValid := false
  overrun := false
  doneIe := false
  din := 0x0000#16
  kin := 0x0000#16
  dout := 0x0000#16
  key := 0x0000#16
  rk := RoundKeys.zero
  pend := ⟨0x00000000#32, 0x0000#16, 0x0000#16⟩

/-- The machine right after reset: the registers of R240, reset released, nothing on the agenda and
no access answered yet. -/
def State.reset : State where
  fce := Fce.reset
  inReset := false
  agenda := []
  answers := []

end Sys2Proof.Machine
end

