-- ==== Sys2Proof/Machine/Operands.lean ====
section
/-! DEFINITION. The operand forms: the snapshot taken at acceptance (30_encoding.md R92, R103), the
bytes of a block (00_scope.md R6; 20_memory.md R64), and the fields of the S-box index. -/

namespace Sys2Proof.Machine

/-- The 16-bit value of the bytes `byte0`, `byte1` in order: byte0 * 256 + byte1 (R6). -/
def blockOfBytes (byte0 byte1 : Byte) : Block := byte0 ++ byte1

/-- The first byte of a block, bits [15:8] (R6). -/
def byte0 (b : Block) : Byte := b.extractLsb' 8 8

/-- The second byte of a block, bits [7:0] (R6). -/
def byte1 (b : Block) : Byte := b.extractLsb' 0 8

/-- PEND as latched by the acceptance of the word `v` (R103). -/
def Fce.snapshot (v : Word) (f : Fce) : Pend := ⟨v, f.din, f.kin⟩

/-- The operand `din` of the pending command (R92). -/
def Fce.opDin (f : Fce) : Block := f.pend.pdin

/-- The operand `kin` of the pending command (R92). -/
def Fce.opKin (f : Fce) : Block := f.pend.pkin

/-- The part of an S-box index that must be zero, din[15:4] (40_sbox.md R125). -/
def indexHigh (din : Block) : BitVec 12 := din.extractLsb' 4 12

/-- The S-box index, din[3:0] (R125). -/
def indexLow (din : Block) : Nibble := din.extractLsb' 0 4

/-- `zext_32` of a 16-bit register field (00_scope.md R7; R65). -/
def wordOfBlock (b : Block) : Word := b.setWidth 32

/-- `v[15:0]` of a written word (R66); v[31:16] is ignored. -/
def blockOfWord (v : Word) : Block := v.extractLsb' 0 16

end Sys2Proof.Machine
end

