-- ==== Sys2Proof/Machine/Cipher.lean ====
section
/-! DEFINITION. The functions of the cipher: rotation (00_scope.md R8), S-box (40_sbox.md R120,
R122), key schedule (41_key_schedule.md R136), round function and rounds (42_feistel.md R155, R157,
R158). -/

namespace Sys2Proof.Machine

/-- `rotl8(b, n)` for 0 ≤ n ≤ 8 (R8). -/
def rotl8 (b : Byte) (n : Nat) : Byte := (b <<< n) ||| (b >>> (8 - n))

/-- The S-box ROM, entry n at position n (R120). -/
def sboxTable : List Nibble :=
  [0x0#4, 0x1#4, 0xB#4, 0xD#4, 0x9#4, 0xE#4, 0x6#4, 0x7#4,
   0xC#4, 0x5#4, 0x8#4, 0x3#4, 0xF#4, 0x2#4, 0x4#4, 0xA#4]

/-- `S(n)` (R120). The table has an entry for every nibble, so the default is never taken. -/
def sboxLookup (n : Nibble) : Nibble := sboxTable.getD n.toNat 0

/-- `SUB8(y)`: each nibble through the S-box on its own (R122). -/
def sub8 (y : Byte) : Byte := sboxLookup (y.extractLsb' 4 4) ++ sboxLookup (y.extractLsb' 0 4)

/-- One step of the key schedule's recurrence, K[i] from K[i-1] and K[i-2] (R136). -/
def nextRoundKey (prev prev2 : Byte) : Byte := rotl8 prev 3 ^^^ rotl8 prev2 5

/-- `KS(key)` (R136). -/
def keySchedule (key : Block) : RoundKeys :=
  let k0 := byte1 key
  let k1 := byte0 key
  let k2 := nextRoundKey k1 k0
  let k3 := nextRoundKey k2 k1
  let k4 := nextRoundKey k3 k2
  let k5 := nextRoundKey k4 k3
  let k6 := nextRoundKey k5 k4
  let k7 := nextRoundKey k6 k5
  ⟨k0, k1, k2, k3, k4, k5, k6, k7⟩

/-- The round keys in the order K[0] to K[7]. -/
def RoundKeys.toList (k : RoundKeys) : List Byte := [k.k0, k.k1, k.k2, k.k3, k.k4, k.k5, k.k6, k.k7]

/-- The round keys in the order K[7] down to K[0] (R158). -/
def RoundKeys.reversed (k : RoundKeys) : RoundKeys := ⟨k.k7, k.k6, k.k5, k.k4, k.k3, k.k2, k.k1, k.k0⟩

/-- The round function `F(r, k)` (R155). -/
def roundFunction (r k : Byte) : Byte := rotl8 (sub8 (r ^^^ k)) 2

/-- One round on the halves (L, R) (R157). -/
def feistelRound (h : Byte × Byte) (k : Byte) : Byte × Byte := (h.2, h.1 ^^^ roundFunction h.2 k)

/-- `ROUNDS8(b, k[0..7])`: L is the first byte, and the output is R[8] ++ L[8] (R157; the output
order is the one 90_conflicts.md C1 settles, notes/assumptions/14.md). -/
def rounds8 (b : Block) (k : RoundKeys) : Block :=
  let h := k.toList.foldl feistelRound (byte0 b, byte1 b)
  blockOfBytes h.2 h.1

/-- The key-order selector: encryption and decryption are one function (R158). -/
inductive KeyOrder where
  | forward
  | reverse
  deriving DecidableEq, Repr

/-- The round keys in the order the selector asks for (R158). -/
def RoundKeys.inOrder (k : RoundKeys) : KeyOrder → RoundKeys
  | .forward => k
  | .reverse => k.reversed

/-- The cipher with round-key set `k` in the selected order (R158). -/
def cipher (o : KeyOrder) (k : RoundKeys) (b : Block) : Block := rounds8 b (k.inOrder o)

/-- `ENC(b)` (R158). -/
def enc (k : RoundKeys) (b : Block) : Block := cipher .forward k b

/-- `DEC(b)` (R158). -/
def dec (k : RoundKeys) (b : Block) : Block := cipher .reverse k b

end Sys2Proof.Machine
end

