-- ==== Sys2Proof/Machine/Flags.lean ====
section
/-! DEFINITION. STATUS: its layout (10_state.md R25), what acceptance and completion do to it
(30_encoding.md R104, R106, R107), the host's write-1-to-clear (R25), and the interrupt line
(60_exceptions.md R210). The FCE has no arithmetic flags (R36). -/

namespace Sys2Proof.Machine

/-- The numeric value of an error in STATUS.ERRCODE (60_exceptions.md R200). -/
def ErrorKind.code : ErrorKind → BitVec 4
  | .noKeyLoaded => 0x1#4
  | .invalidKey => 0x2#4
  | .invalidInput => 0x3#4
  | .invalidCommand => 0x4#4

/-- The STATUS effects of acceptance (R104). -/
def Fce.acceptStatus (f : Fce) : Fce :=
  { f with busy := true, done := false, err := false, errCode := 0x0#4 }

/-- The STATUS effects of `complete()` (R106). -/
def Fce.completeStatus (f : Fce) : Fce :=
  { f with busy := false, done := true, err := false, errCode := 0x0#4 }

/-- The STATUS effects of `raise Error(code)` (R106). -/
def Fce.raiseStatus (e : ErrorKind) (f : Fce) : Fce :=
  { f with busy := false, done := true, err := true, errCode := e.code, errAny := true }

/-- OVERRUN is set by a CMD write while busy (R107). -/
def Fce.setOverrun (f : Fce) : Fce := { f with overrun := true }

/-- A host write of `v` to STATUS: bits 1, 3 and 9 clear DONE, ERR_ANY and OVERRUN (R25, R66). -/
def Fce.clearStatus (v : Word) (f : Fce) : Fce :=
  { f with
    done := f.done && !v.getLsbD 1
    errAny := f.errAny && !v.getLsbD 3
    overrun := f.overrun && !v.getLsbD 9 }

/-- STATUS as read: bit 9 first in the concatenation of R65, bits [31:10] zero. -/
def Fce.statusWord (f : Fce) : Word :=
  (BitVec.ofBool f.overrun ++ BitVec.ofBool f.keyValid ++ f.errCode ++ BitVec.ofBool f.errAny ++
    BitVec.ofBool f.err ++ BitVec.ofBool f.done ++ BitVec.ofBool f.busy).setWidth 32

/-- The interrupt output (R210). -/
def Fce.irq (f : Fce) : Bool := f.doneIe && f.done

end Sys2Proof.Machine
end

