-- ==== Sys2Proof/Machine/Ops.lean ====
section
/-! DEFINITION. The operations shared by the commands and the bus: the register window (10_state.md
R22; 20_memory.md R65, R66), acceptance and the two ends of a command (30_encoding.md R103 to R107),
the writes of the cipher state (R33), and the reset input (70_reset_and_hazards.md R240, R241). The
FCE takes no trap and returns from none (60_exceptions.md R207, R208): what takes an error is
`State.raiseError`, and what ends it is the acceptance of the next command, `Fce.accept`. -/

namespace Sys2Proof.Machine

/-- The registers of the window (R22). -/
inductive Reg where
  | id
  | cmd
  | status
  | irqEn
  | din
  | kin
  | dout
  | key
  | rk03
  | rk47
  deriving DecidableEq, Repr

/-- The offset of a register (R22). -/
def Reg.offset : Reg → Offset
  | .id => 0x00#6
  | .cmd => 0x04#6
  | .status => 0x08#6
  | .irqEn => 0x0C#6
  | .din => 0x10#6
  | .kin => 0x14#6
  | .dout => 0x18#6
  | .key => 0x1C#6
  | .rk03 => 0x20#6
  | .rk47 => 0x24#6

/-- The register at an offset that is a multiple of 4; none at the reserved ones (R22). -/
def regAt (off : Offset) : Option Reg :=
  match off.toNat with
  | 0x00 => some .id
  | 0x04 => some .cmd
  | 0x08 => some .status
  | 0x0C => some .irqEn
  | 0x10 => some .din
  | 0x14 => some .kin
  | 0x18 => some .dout
  | 0x1C => some .key
  | 0x20 => some .rk03
  | 0x24 => some .rk47
  | _ => none

/-- The identification constant "FCE1" (R23). -/
def idWord : Word := 0x46434531#32

/-- RK0_3 as read (R31). -/
def Fce.rk03Word (f : Fce) : Word := f.rk.k3 ++ f.rk.k2 ++ f.rk.k1 ++ f.rk.k0

/-- RK4_7 as read (R32). -/
def Fce.rk47Word (f : Fce) : Word := f.rk.k7 ++ f.rk.k6 ++ f.rk.k5 ++ f.rk.k4

/-- What a register reads as (R65). -/
def Fce.readReg (f : Fce) : Reg → Word
  | .id => idWord
  | .cmd => f.lastCmd
  | .status => f.statusWord
  | .irqEn => (BitVec.ofBool f.doneIe).setWidth 32
  | .din => wordOfBlock f.din
  | .kin => wordOfBlock f.kin
  | .dout => wordOfBlock f.dout
  | .key => wordOfBlock f.key
  | .rk03 => f.rk03Word
  | .rk47 => f.rk47Word

/-- The acceptance of the command word `v` (R103, R104). -/
def Fce.accept (v : Word) (f : Fce) : Fce :=
  { f with lastCmd := v, pend := f.snapshot v }.acceptStatus

/-- `IssueCommand(v)` (R103): accepted when idle; dropped with OVERRUN while busy (R107). -/
def Fce.issueCommand (v : Word) (f : Fce) : Fce :=
  if f.busy then f.setOverrun else f.accept v

/-- What a host write of `v` to a register does (R66). -/
def Fce.writeReg (v : Word) (f : Fce) : Reg → Fce
  | .id => f
  | .cmd => f.issueCommand v
  | .status => f.clearStatus v
  | .irqEn => { f with doneIe := v.getLsbD 0 }
  | .din => { f with din := blockOfWord v }
  | .kin => { f with kin := blockOfWord v }
  | .dout => f
  | .key => f
  | .rk03 => f
  | .rk47 => f

/-- The only supported access: 32 bits wide at a multiple of 4 (R62). -/
def supported (off : Offset) (n : Nat) : Bool := n == 4 && off.toNat % 4 == 0

/-- `MemRead`, at an offset in the window (R65). -/
def Fce.memRead (f : Fce) (off : Offset) (n : Nat) : Except Fault Word :=
  if supported off n then
    match regAt off with
    | some r => .ok (f.readReg r)
    | none => .ok 0x00000000#32
  else .error .busError

/-- `MemWrite`, at an offset in the window (R66). -/
def Fce.memWrite (f : Fce) (off : Offset) (n : Nat) (v : Word) : Except Fault Fce :=
  if supported off n then
    match regAt off with
    | some r => .ok (f.writeReg v r)
    | none => .ok f
  else .error .busError

/-- The FCE's answer to an access, and the registers after it. A bus error changes none (R62). -/
def Fce.access (f : Fce) : Access → Fce × Answer
  | .read off n =>
    match f.memRead off n with
    | .ok v => (f, .data v)
    | .error r => (f, .fault r)
  | .write off n v =>
    match f.memWrite off n v with
    | .ok f' => (f', .ack)
    | .error r => (f, .fault r)

/-- Service one host access; while reset is asserted it is a fault and has no effect (R241). -/
def State.serviceAccess (a : Access) (s : State) : State :=
  if s.inReset then { s with answers := .fault .accessDuringReset :: s.answers }
  else { s with fce := (s.fce.access a).1, answers := (s.fce.access a).2 :: s.answers }

/-- The reset input changes. Asserting it abandons the pending command and resets every register;
at its end the registers hold their reset values (R240, R241; notes/assumptions/4.md). -/
def State.resetLine (asserted : Bool) (s : State) : State :=
  if asserted then { s with fce := Fce.reset, inReset := true }
  else { s with fce := if s.inReset then Fce.reset else s.fce, inReset := false }

/-- The engine's step is enabled while BUSY = 1 (R105), and not while reset is asserted (R241). -/
def State.engineEnabled (s : State) : Bool := s.fce.busy && !s.inReset

/-- The command that the engine's next completion runs (R105). -/
def Fce.pendingInstr (f : Fce) : Instr := decodeWord f.pend.pcmd

/-- KEY, RK and KEY_VALID after a load of `kin` (41_key_schedule.md R140; 43_compress.md R180). -/
def Fce.loadCipherState (kin : Block) (f : Fce) : Fce :=
  { f with key := kin, rk := keySchedule kin, keyValid := true }

/-- KEY, RK and KEY_VALID after a delete (41_key_schedule.md R145). -/
def Fce.clearCipherState (f : Fce) : Fce :=
  { f with key := 0x0000#16, rk := RoundKeys.zero, keyValid := false }

/-- A result in DOUT (10_state.md R29). -/
def Fce.setDout (v : Block) (f : Fce) : Fce := { f with dout := v }

/-- `complete()` with the registers `f` that the command wrote (R9, R106). -/
def State.complete (f : Fce) (s : State) : Host.Outcome State Fault Refusal :=
  .next { s with fce := f.completeStatus }

/-- `raise Error(e)`: STATUS and nothing else changes (R9, R106, R203). -/
def State.raiseError (e : ErrorKind) (s : State) : Host.Outcome State Fault Refusal :=
  .next { s with fce := s.fce.raiseStatus e }

/-- The level of the interrupt output (60_exceptions.md R210). -/
def State.irq (s : State) : Bool := s.fce.irq

end Sys2Proof.Machine
end

