-- ==== Sys2Proof/Machine/Compress.lean ====
section
/-! DEFINITION. The completion of COMPRESS (43_compress.md R180). -/

namespace Sys2Proof.Machine

/-- COMPRESS (R180): the load of `kin`, then the encryption of `din` under it. -/
def execCompress (s : State) : Host.Outcome State Fault Refusal :=
  let loaded := s.fce.loadCipherState s.fce.opKin
  s.complete (loaded.setDout (enc loaded.rk s.fce.opDin))

end Sys2Proof.Machine
end

