-- ==== Sys2Proof/Machine/Control.lean ====
section
/-! DEFINITION. The completions of NOP (44_control.md R195) and of an illegal word (30_encoding.md
R94). -/

namespace Sys2Proof.Machine

/-- NOP (R195). -/
def execNop (s : State) : Host.Outcome State Fault Refusal := s.complete s.fce

/-- An illegal word, whatever it is: INVALID_COMMAND (R94). -/
def execIllegal (_c : Word) (s : State) : Host.Outcome State Fault Refusal :=
  s.raiseError .invalidCommand

end Sys2Proof.Machine
end

