-- ==== Sys2Proof/Machine/Feistel.lean ====
section
/-! DEFINITION. The completions of ENCRYPT and DECRYPT (42_feistel.md R160, R165). -/

namespace Sys2Proof.Machine

/-- What ENCRYPT and DECRYPT share: the check of KEY_VALID, and the cipher of `din` with RK as it
stands at completion, in the selected key order (R158, R160, R165). -/
def cipherCommand (o : KeyOrder) (s : State) : Host.Outcome State Fault Refusal :=
  if s.fce.keyValid then s.complete (s.fce.setDout (cipher o s.fce.rk s.fce.opDin))
  else s.raiseError .noKeyLoaded

/-- ENCRYPT (R160). -/
def execEncrypt (s : State) : Host.Outcome State Fault Refusal := cipherCommand .forward s

/-- DECRYPT (R165). -/
def execDecrypt (s : State) : Host.Outcome State Fault Refusal := cipherCommand .reverse s

end Sys2Proof.Machine
end

