-- ==== Sys2Proof/Machine/KeySchedule.lean ====
section
/-! DEFINITION. The completions of LOAD_KEY and DELETE_KEY (41_key_schedule.md R140, R145). -/

namespace Sys2Proof.Machine

/-- LOAD_KEY (R140). -/
def execLoadKey (s : State) : Host.Outcome State Fault Refusal :=
  s.complete (s.fce.loadCipherState s.fce.opKin)

/-- DELETE_KEY (R145). -/
def execDeleteKey (s : State) : Host.Outcome State Fault Refusal :=
  s.complete s.fce.clearCipherState

end Sys2Proof.Machine
end

