-- ==== Sys2Proof/Machine/Sbox.lean ====
section
/-! DEFINITION. The completion of SBOX (40_sbox.md R125). -/

namespace Sys2Proof.Machine

/-- SBOX (R125): an index above 15 is refused by the hardware with INVALID_INPUT, not masked. -/
def execSbox (s : State) : Host.Outcome State Fault Refusal :=
  if indexHigh s.fce.opDin ≠ 0 then s.raiseError .invalidInput
  else s.complete (s.fce.setDout ((sboxLookup (indexLow s.fce.opDin)).setWidth 16))

end Sys2Proof.Machine
end

