-- ==== Sys2Proof/Machine/Dispatch.lean ====
section
/-! DEFINITION. What each command does at its completion, one arm per constructor (30_encoding.md
R105). -/

namespace Sys2Proof.Machine

def exec (i : Instr) (s : State) : Host.Outcome State Fault Refusal :=
  match i with
  | .nop => Sys2Proof.Machine.execNop s
  | .loadKey => Sys2Proof.Machine.execLoadKey s
  | .deleteKey => Sys2Proof.Machine.execDeleteKey s
  | .encrypt => Sys2Proof.Machine.execEncrypt s
  | .decrypt => Sys2Proof.Machine.execDecrypt s
  | .compress => Sys2Proof.Machine.execCompress s
  | .sbox => Sys2Proof.Machine.execSbox s
  | .illegal c => Sys2Proof.Machine.execIllegal c s

end Sys2Proof.Machine
end

