-- ==== Sys2Proof/Machine/Step.lean ====
section
/-! DEFINITION. One step: the oldest entry of the agenda happens (00_scope.md R10, R12; 20_memory.md
R71). With nothing on the agenda, a pending command completes (weak fairness, R12, R243), and an idle
FCE waits (70_reset_and_hazards.md R240). -/

namespace Sys2Proof.Machine

/-- The engine's turn: the completion of the pending command where it is enabled (R105). -/
def engineTurn (s : State) : Host.Outcome State Fault Refusal :=
  if s.engineEnabled then exec s.fce.pendingInstr s else .next s

/-- One step of the machine. -/
def step (s : State) : Host.Outcome State Fault Refusal :=
  match s.agenda with
  | [] => engineTurn s
  | .engine :: rest => engineTurn { s with agenda := rest }
  | .access a :: rest => .next ({ s with agenda := rest }.serviceAccess a)
  | .reset b :: rest => .next ({ s with agenda := rest }.resetLine b)

/-- The command word whose low `nbits` bits are `w`, accepted, with the engine moving next: the state
in which the very next step runs it (R103; notes/assumptions/6.md). With nothing on the agenda the
engine moves as it is. -/
def State.withFetchWord (s : State) (nbits w : Nat) : State :=
  { s with
    fce := s.fce.accept (tableWord nbits w)
    inReset := false
    agenda :=
      match s.agenda with
      | [] => []
      | e :: rest => .engine :: e :: rest }

end Sys2Proof.Machine
end

