-- ==== Sys2Proof/Machine/HostNotation.lean ====
section
/-! DEFINITION. The notation for host programs (30_encoding.md R96) and its pseudo-instructions
(R97). The host is not part of the FCE: only WR and RD touch it, by the accesses of 20_memory.md R65
and R66. The operators of host expressions, the value of a variable before its first LET, and where a
GOTO goes when its label is missing or stands twice are the model's (notes/assumptions/11.md). -/

namespace Sys2Proof.Machine

/-- The operators of host expressions: 32 bits, unsigned, wrapping (R96). -/
inductive HostOp where
  | add
  | sub
  | mul
  | and
  | or
  | xor
  | shl
  | shr
  deriving DecidableEq, Repr

/-- A host expression over the variables `h0`, `h1`, … -/
inductive HostExpr where
  | lit (v : Word)
  | var (h : Nat)
  | bin (op : HostOp) (a b : HostExpr)
  deriving DecidableEq, Repr

/-- The conditions of IF and ASSERT. -/
inductive HostCond where
  | eq (a b : HostExpr)
  | ne (a b : HostExpr)
  deriving DecidableEq, Repr

/-- A statement of a host program (R96). -/
inductive HostStmt where
  | wr (r : Reg) (e : HostExpr)
  | rd (h : Nat) (r : Reg)
  | assign (h : Nat) (e : HostExpr)
  | gotoIf (c : HostCond) (l : Nat)
  | goto (l : Nat)
  | label (l : Nat)
  | assert (c : HostCond)
  deriving DecidableEq, Repr

/-- The values of the host variables that have one. -/
abbrev HostVars := List (Nat × Word)

/-- The value of a host variable. DESIGN CHOICE: 0 before its first assignment. -/
def HostVars.get (vs : HostVars) (h : Nat) : Word :=
  match vs.find? (fun p => p.1 == h) with
  | some p => p.2
  | none => 0

/-- An assignment to a host variable. -/
def HostVars.set (vs : HostVars) (h : Nat) (v : Word) : HostVars :=
  (h, v) :: vs.filter (fun p => p.1 != h)

/-- The value of an operator; a shift by 32 or more leaves no bit. -/
def HostOp.apply : HostOp → Word → Word → Word
  | .add, a, b => a + b
  | .sub, a, b => a - b
  | .mul, a, b => a * b
  | .and, a, b => a &&& b
  | .or, a, b => a ||| b
  | .xor, a, b => a ^^^ b
  | .shl, a, b => a <<< b.toNat
  | .shr, a, b => a >>> b.toNat

/-- The value of an expression. -/
def HostExpr.eval (vs : HostVars) : HostExpr → Word
  | .lit v => v
  | .var h => vs.get h
  | .bin op a b => op.apply (a.eval vs) (b.eval vs)

/-- Whether a condition holds. -/
def HostCond.holds (vs : HostVars) : HostCond → Bool
  | .eq a b => a.eval vs == b.eval vs
  | .ne a b => a.eval vs != b.eval vs

/-- A host program running against one instance that it owns. -/
structure Session where
  program : List HostStmt
  /-- The host's own program counter (10_state.md R21). -/
  pc : Nat
  vars : HostVars
  /-- Every ASSERT so far held. -/
  claims : Bool
  dev : State
  deriving DecidableEq, Repr

/-- Where a GOTO to a label goes. R96 says what neither a label that stands twice nor one that is
missing means. DESIGN CHOICE (notes/assumptions/11.md): the first of the places where the label stands,
and past the end where the program has no such label. -/
def labelIndex (p : List HostStmt) (l : Nat) : Nat := p.findIdx (fun st => st == .label l)

/-- A program at its first statement, with the FCE in state `s`. -/
def Session.start (p : List HostStmt) (s : State) : Session := ⟨p, 0, [], true, s⟩

/-- The host executes a statement (R96). A WR or RD is one access; a fault of the access ends the
program with that fault. Past its end the program does nothing more. -/
def Session.hostMove (x : Session) : Host.Outcome Session Fault Refusal :=
  match x.program[x.pc]? with
  | none => .next x
  | some (.wr r e) =>
    let d := x.dev.serviceAccess (.write r.offset 4 (e.eval x.vars))
    match d.answers.head? with
    | some (.fault q) => .fault q
    | _ => .next { x with pc := x.pc + 1, dev := d }
  | some (.rd h r) =>
    let d := x.dev.serviceAccess (.read r.offset 4)
    match d.answers.head? with
    | some (.data v) => .next { x with pc := x.pc + 1, vars := x.vars.set h v, dev := d }
    | some (.fault q) => .fault q
    | _ => .next { x with pc := x.pc + 1, dev := d }
  | some (.assign h e) => .next { x with pc := x.pc + 1, vars := x.vars.set h (e.eval x.vars) }
  | some (.gotoIf c l) =>
    .next { x with pc := if c.holds x.vars then labelIndex x.program l else x.pc + 1 }
  | some (.goto l) => .next { x with pc := labelIndex x.program l }
  | some (.label _) => .next { x with pc := x.pc + 1 }
  | some (.assert c) => .next { x with pc := x.pc + 1, claims := x.claims && c.holds x.vars }

/-- The engine gets a turn between two accesses of the host (20_memory.md R71). -/
def Session.engineMove (x : Session) : Host.Outcome Session Fault Refusal :=
  match engineTurn x.dev with
  | .next d => .next { x with dev := d }
  | .fault q => .fault q
  | .refused q => .refused q

/-- A command's word as an operand of WR CMD (R96). -/
def commandExpr (i : Instr) : HostExpr := .lit (encode i)

/-- `WAIT`, with the host variable `t` and the label `l` that it uses for itself (R97). -/
def hostWait (t l : Nat) : List HostStmt :=
  [.label l, .rd t .status, .gotoIf (.ne (.bin .and (.var t) (.lit 1#32)) (.lit 0#32)) l]

/-- `CHECK` (R97). -/
def hostCheck (t : Nat) : List HostStmt :=
  [.rd t .status, .assert (.eq (.bin .and (.var t) (.lit 4#32)) (.lit 0#32))]

/-- `DO <op>`, with the command word as an expression (R97). -/
def hostDo (op : HostExpr) (t l : Nat) : List HostStmt := .wr .cmd op :: hostWait t l

/-- `LOADKEY <k>` (R97). -/
def hostLoadKey (k : HostExpr) (t l : Nat) : List HostStmt :=
  .wr .kin k :: hostDo (commandExpr .loadKey) t l

/-- `DELKEY` (R97). -/
def hostDelKey (t l : Nat) : List HostStmt := hostDo (commandExpr .deleteKey) t l

/-- `ENC <h>, <b>` (R97). -/
def hostEnc (h : Nat) (b : HostExpr) (t l : Nat) : List HostStmt :=
  .wr .din b :: hostDo (commandExpr .encrypt) t l ++ [.rd h .dout]

/-- `DEC <h>, <b>` (R97). -/
def hostDec (h : Nat) (b : HostExpr) (t l : Nat) : List HostStmt :=
  .wr .din b :: hostDo (commandExpr .decrypt) t l ++ [.rd h .dout]

/-- `COMP <h>, <m>, <cv>` (R97). -/
def hostComp (h : Nat) (m cv : HostExpr) (t l : Nat) : List HostStmt :=
  .wr .din m :: .wr .kin cv :: hostDo (commandExpr .compress) t l ++ [.rd h .dout]

/-- `SUBST <h>, <n>` (R97). -/
def hostSubst (h : Nat) (n : HostExpr) (t l : Nat) : List HostStmt :=
  .wr .din n :: hostDo (commandExpr .sbox) t l ++ [.rd h .dout]

end Sys2Proof.Machine
end

