-- ==== Sys2Proof/Config.lean ====
section
/-! DEFINITION. What an implementation or platform fixes and the spec leaves OPEN (00_scope.md R5;
93_implementation_defined.md section 1). The constants are opaque: nothing can be proved of their
values. LAT_op and BUS_PROTOCOL have no constant, because no rule depends on them (R108, R252;
notes/assumptions/8.md). -/

namespace Sys2Proof

/-- Where the platform places the windows (R5, BASE_ADDR): each instance has its own (60_exceptions.md
R225), so no two share a place. DESIGN CHOICE of form: a permutation of all places, which leaves the
places of finitely many instances free but for that (notes/assumptions/7.md). -/
opaque Config.windows : Equiv.Perm Nat

/-- Which 64-byte window of the host's address space instance `k` occupies (R5). -/
def Config.windowIndex (k : Nat) : Nat := Config.windows k

/-- BASE_ADDR of instance `k`: any host address aligned to 64 bytes (R5). -/
def Config.baseAddr (k : Nat) : Nat := 64 * Config.windowIndex k

/-- How many instances the platform has beyond the first. -/
opaque Config.extraInstances : Nat

/-- INSTANCES: at least 1 (R5, R225). -/
def Config.instances : Nat := Config.extraInstances + 1

end Sys2Proof
end

