-- ==== Sys2Proof/Machine/Platform.lean ====
section
/-! DEFINITION. Several instances on one platform, and the host's addresses (00_scope.md R5;
20_memory.md R61, R65, R66, R69; 60_exceptions.md R225). The instances share nothing: each has its own state, its own `irq` and its
own window (`Config.windows`), so an address is in the window of one instance at most. -/

namespace Sys2Proof.Machine

/-- The offset of an address in the window of instance `k`; none where that instance does not decode
it (R61). -/
def windowOffset (k addr : Nat) : Option Offset :=
  if Config.baseAddr k ≤ addr ∧ addr < Config.baseAddr k + 64 then
    some (BitVec.ofNat 6 (addr - Config.baseAddr k))
  else none

/-- `MemRead(addr, n)` of instance `k` (R65); none where the instance does not decode the address. -/
def memReadAt (k : Nat) (f : Fce) (addr n : Nat) : Option (Except Fault Word) :=
  (windowOffset k addr).map fun off => f.memRead off n

/-- `MemWrite(addr, n, v)` of instance `k` (R66). -/
def memWriteAt (k : Nat) (f : Fce) (addr n : Nat) (v : Word) : Option (Except Fault Fce) :=
  (windowOffset k addr).map fun off => f.memWrite off n v

/-- The instances of a platform, by number (R225). -/
abbrev Platform := List State

/-- INSTANCES independent machines right after reset (R5, R240). -/
def Platform.reset : Platform := List.replicate Config.instances State.reset

/-- A host access to an address: it arrives, after those that came before it, at the instance whose
window holds the address, and at no other, because no two windows share an address (R61, R71, R225).
`mk` makes the access from its offset. -/
def Platform.arrive (p : Platform) (addr : Nat) (mk : Offset → Access) : Platform :=
  p.mapIdx fun k s =>
    match windowOffset k addr with
    | some off => { s with agenda := s.agenda ++ [.access (mk off)] }
    | none => s

/-- Instance `k` takes a step; the others keep their state (R225). -/
def Platform.stepInstance (p : Platform) (k : Nat) : Platform :=
  match p[k]? with
  | some s =>
    match step s with
    | .next t => p.set k t
    | .fault _ => p
    | .refused _ => p
  | none => p

/-- The interrupt lines, one for each instance (R210, R225). -/
def Platform.irqs (p : Platform) : List Bool := p.map State.irq

end Sys2Proof.Machine
end

