-- ==== Sys2Proof/Safety.lean ====
section
/-! DEFINITION. What the statements call a good state: the cipher-state invariant of 10_state.md R33,
the life-cycle of STATUS (30_encoding.md R103 to R107; 60_exceptions.md R200, R204), and a run in
which no access was answered with a fault. -/

namespace Sys2Proof.Machine

/-- The invariant of the cipher state (R33). -/
abbrev Fce.CipherInv (f : Fce) : Prop :=
  (f.keyValid = true → f.rk = keySchedule f.key) ∧
  (f.keyValid = false → f.key = 0x0000#16 ∧ f.rk = RoundKeys.zero)

/-- The codes a completion can leave in ERRCODE (R200, R204). -/
abbrev possibleCodes : List (BitVec 4) := [0x0#4, 0x1#4, 0x3#4, 0x4#4]

/-- What the life-cycle keeps of STATUS: while a command runs, DONE, ERR and ERRCODE are as its
acceptance left them (R104) and LAST_CMD is the running word (R37); ERR and ERRCODE agree (R106); and
ERRCODE is never a code that no completion produces (R204). -/
abbrev Fce.LifeCycleInv (f : Fce) : Prop :=
  (f.busy = true → f.done = false ∧ f.err = false ∧ f.pend.pcmd = f.lastCmd) ∧
  (f.err = true ↔ f.errCode ≠ 0x0#4) ∧
  f.errCode ∈ possibleCodes

/-- While reset is asserted the registers hold their reset values (R240, R241). -/
abbrev State.ResetInv (s : State) : Prop := s.inReset = true → s.fce = Fce.reset

/-- The invariant of the machine. -/
abbrev State.Inv (s : State) : Prop := s.fce.CipherInv ∧ s.fce.LifeCycleInv ∧ s.ResetInv

/-- The next thing to happen is the completion of the pending command (R105). -/
abbrev State.CompletesNext (s : State) : Prop :=
  s.engineEnabled = true ∧ (s.agenda = [] ∨ s.agenda.head? = some .engine)

/-- The next thing to happen is a change of the reset input. -/
abbrev State.ResetNext (s : State) : Prop := ∃ b, s.agenda.head? = some (.reset b)

/-- Every register at the value that R240 gives it. PEND, to which R240 gives none, is not named. -/
abbrev Fce.AtResetValues (f : Fce) : Prop :=
  f.lastCmd = 0x00000000#32 ∧ f.busy = false ∧ f.done = false ∧ f.err = false ∧ f.errAny = false ∧
  f.keyValid = false ∧ f.overrun = false ∧ f.errCode = 0x0#4 ∧ f.doneIe = false ∧
  f.din = 0x0000#16 ∧ f.kin = 0x0000#16 ∧ f.dout = 0x0000#16 ∧ f.key = 0x0000#16 ∧
  f.rk.k0 = 0x00#8 ∧ f.rk.k1 = 0x00#8 ∧ f.rk.k2 = 0x00#8 ∧ f.rk.k3 = 0x00#8 ∧
  f.rk.k4 = 0x00#8 ∧ f.rk.k5 = 0x00#8 ∧ f.rk.k6 = 0x00#8 ∧ f.rk.k7 = 0x00#8

/-- The host is about to write the command word `c` to CMD of an idle FCE, and the engine then gets
its turn. -/
abbrev State.Issues (s : State) (c : Word) : Prop :=
  s.fce.busy = false ∧ s.inReset = false ∧ s.agenda = [.access (.write 0x04#6 4 c), .engine]

/-- The offsets of the window registers whose reading a command's completion can change: STATUS, and
the registers its row of R91 writes. -/
def writtenOffsets : Instr → List Offset
  | .nop => [0x08#6]
  | .loadKey => [0x08#6, 0x1C#6, 0x20#6, 0x24#6]
  | .deleteKey => [0x08#6, 0x1C#6, 0x20#6, 0x24#6]
  | .encrypt => [0x08#6, 0x18#6]
  | .decrypt => [0x08#6, 0x18#6]
  | .compress => [0x08#6, 0x18#6, 0x1C#6, 0x20#6, 0x24#6]
  | .sbox => [0x08#6, 0x18#6]
  | .illegal _ => [0x08#6]

/-- No access of the run so far was answered with a fault. -/
abbrev State.NoFaultYet (s : State) : Prop := ∀ r, Answer.fault r ∉ s.answers

/-- An access that the bus supports (R62). -/
abbrev Access.Supported : Access → Prop
  | .read off n => supported off n = true
  | .write off n _ => supported off n = true

end Sys2Proof.Machine
end

