-- ==== Sys2Proof/Certificates/Slice0/Obligations.lean ====
section
/-! DEFINITION. The statements about the FCE. Where a statement names a register record after a
command as `{ s.fce with … }`, the record says both what the command writes and that it writes nothing
else. -/

open Sys2Proof Sys2Proof.Machine

/-! ### Encoding -/

/-- Decoding the lanes of a well-formed command gives the command back, and takes no lane more. -/
def Obligations.DecodeOfEncodeGivesTheCommandBack : Prop :=
  ∀ (i : Instr) (rest : List Byte), i.wellFormed = true →
    decodeLanes (encodeLanes i ++ rest) = .ok (i, rest)

/-- Every 32-bit word decodes to a well-formed command, and that command's word is the word: no bit
of a word is dropped and no two words share a command. -/
def Obligations.EveryWordDecodesAndEncodesBack : Prop :=
  ∀ w : Word, (decodeWord w).wellFormed = true ∧ encode (decodeWord w) = w

/-- The words of R91, written out, and four illegal ones. -/
def Obligations.WordsOfTheOpcodeMapDecode : Prop :=
  decodeTableWord 32 0x00000000 = some .nop ∧
  decodeTableWord 32 0x00000001 = some .loadKey ∧
  decodeTableWord 32 0x00000002 = some .deleteKey ∧
  decodeTableWord 32 0x00000003 = some .encrypt ∧
  decodeTableWord 32 0x00000004 = some .decrypt ∧
  decodeTableWord 32 0x00000005 = some .compress ∧
  decodeTableWord 32 0x00000006 = some .sbox ∧
  decodeTableWord 32 0x00000007 = some (.illegal 0x00000007#32) ∧
  decodeTableWord 32 0x0000000F = some (.illegal 0x0000000F#32) ∧
  decodeTableWord 32 0x00000017 = some (.illegal 0x00000017#32) ∧
  decodeTableWord 32 0x10000003 = some (.illegal 0x10000003#32)

/-- R93: what legal means, which words are legal, and that exactly the others decode as illegal. -/
def Obligations.ExactlySevenWordsAreLegal : Prop :=
  ∀ c : Word,
    (legalWord c = true ↔ c.extractLsb' 4 28 = 0#28 ∧ c.extractLsb' 0 4 ≤ 0x6#4) ∧
    (legalWord c = true ↔ c ∈ [0x0#32, 0x1#32, 0x2#32, 0x3#32, 0x4#32, 0x5#32, 0x6#32]) ∧
    (legalWord c = false ↔ decodeWord c = .illegal c)

/-! ### The functions of the cipher -/

/-- R8: the formula, the cases 0 and 8, where each bit goes, and that a rotation is undone by the
rotation the rest of the way round. -/
def Obligations.RotateLeftWrapsAndIsUndone : Prop :=
  ∀ (b : Byte) (n : Nat), n ≤ 8 →
    rotl8 b n = (((b.setWidth 16 <<< n) ||| (b.setWidth 16 >>> (8 - n))).extractLsb' 0 8 : Byte) ∧
    rotl8 b 0 = b ∧ rotl8 b 8 = b ∧
    (∀ i, i < 8 → (rotl8 b n).getLsbD ((i + n) % 8) = b.getLsbD i) ∧
    rotl8 (rotl8 b n) (8 - n) = b

/-- R120: the table, entry by entry. -/
def Obligations.SboxIsTheTable : Prop :=
  sboxLookup 0x0#4 = 0x0#4 ∧ sboxLookup 0x1#4 = 0x1#4 ∧ sboxLookup 0x2#4 = 0xB#4 ∧
  sboxLookup 0x3#4 = 0xD#4 ∧ sboxLookup 0x4#4 = 0x9#4 ∧ sboxLookup 0x5#4 = 0xE#4 ∧
  sboxLookup 0x6#4 = 0x6#4 ∧ sboxLookup 0x7#4 = 0x7#4 ∧ sboxLookup 0x8#4 = 0xC#4 ∧
  sboxLookup 0x9#4 = 0x5#4 ∧ sboxLookup 0xA#4 = 0x8#4 ∧ sboxLookup 0xB#4 = 0x3#4 ∧
  sboxLookup 0xC#4 = 0xF#4 ∧ sboxLookup 0xD#4 = 0x2#4 ∧ sboxLookup 0xE#4 = 0x4#4 ∧
  sboxLookup 0xF#4 = 0xA#4

/-- R121: a bijection, its inverse, and its four fixed points. -/
def Obligations.SboxIsABijectionWithFourFixedPoints : Prop :=
  Function.Bijective sboxLookup ∧
  (∀ n : Nibble, [0x0#4, 0x1#4, 0xD#4, 0xB#4, 0xE#4, 0x9#4, 0x6#4, 0x7#4, 0xA#4, 0x4#4, 0xF#4, 0x2#4,
    0x8#4, 0x3#4, 0x5#4, 0xC#4].getD (sboxLookup n).toNat 0#4 = n) ∧
  (∀ n : Nibble, sboxLookup n = n ↔ n ∈ [0x0#4, 0x1#4, 0x6#4, 0x7#4])

/-- R122: each lane of a byte through the table on its own, a bijection on bytes, and the examples. -/
def Obligations.ByteSubstitutionActsOnEachNibble : Prop :=
  (∀ y : Byte, (sub8 y).extractLsb' 4 4 = sboxLookup (y.extractLsb' 4 4) ∧
    (sub8 y).extractLsb' 0 4 = sboxLookup (y.extractLsb' 0 4)) ∧
  Function.Bijective sub8 ∧
  sub8 0x62#8 = 0x6B#8 ∧ sub8 0xD3#8 = 0x2D#8 ∧ sub8 0xFF#8 = 0xAA#8 ∧ sub8 0x00#8 = 0x00#8

/-- R136: the two bytes of the key and the recurrence, with the example of key 0xB0B1. -/
def Obligations.KeyScheduleFollowsTheRecurrence : Prop :=
  (∀ key : Block,
    (keySchedule key).k0 = key.extractLsb' 0 8 ∧
    (keySchedule key).k1 = key.extractLsb' 8 8 ∧
    ∀ i, 2 ≤ i → i ≤ 7 → ∃ a b c : Byte,
      (keySchedule key).toList[i]? = some a ∧ (keySchedule key).toList[i - 1]? = some b ∧
      (keySchedule key).toList[i - 2]? = some c ∧ a = rotl8 b 3 ^^^ rotl8 c 5) ∧
  (keySchedule 0xB0B1#16).k0 = 0xB1#8 ∧ (keySchedule 0xB0B1#16).k1 = 0xB0#8

/-- R137: XOR of keys gives XOR of round keys, key 0 gives zeros, no two keys share a round-key set,
and the round keys of 0xFFFF. -/
def Obligations.KeyScheduleIsLinearAndInjective : Prop :=
  (∀ a b : Block, (keySchedule (a ^^^ b)).toList =
    List.zipWith (fun x y : Byte => x ^^^ y) (keySchedule a).toList (keySchedule b).toList) ∧
  (keySchedule 0x0000#16).toList = List.replicate 8 0x00#8 ∧
  Function.Injective keySchedule ∧
  (keySchedule 0xFFFF#16).toList =
    [0xFF#8, 0xFF#8, 0x00#8, 0xFF#8, 0xFF#8, 0x00#8, 0xFF#8, 0xFF#8]

/-- R138: the derivation for key 0xB0B1, row by row, and what RK0_3 and RK4_7 read after its load. -/
def Obligations.WorkedKeyScheduleOfB0B1 : Prop :=
  (rotl8 0xB0#8 3 = 0x85#8 ∧ rotl8 0xB1#8 5 = 0x36#8 ∧ 0x85#8 ^^^ 0x36#8 = 0xB3#8) ∧
  (rotl8 0xB3#8 3 = 0x9D#8 ∧ rotl8 0xB0#8 5 = 0x16#8 ∧ 0x9D#8 ^^^ 0x16#8 = 0x8B#8) ∧
  (rotl8 0x8B#8 3 = 0x5C#8 ∧ rotl8 0xB3#8 5 = 0x76#8 ∧ 0x5C#8 ^^^ 0x76#8 = 0x2A#8) ∧
  (rotl8 0x2A#8 3 = 0x51#8 ∧ rotl8 0x8B#8 5 = 0x71#8 ∧ 0x51#8 ^^^ 0x71#8 = 0x20#8) ∧
  (rotl8 0x20#8 3 = 0x01#8 ∧ rotl8 0x2A#8 5 = 0x45#8 ∧ 0x01#8 ^^^ 0x45#8 = 0x44#8) ∧
  (rotl8 0x44#8 3 = 0x22#8 ∧ rotl8 0x20#8 5 = 0x04#8 ∧ 0x22#8 ^^^ 0x04#8 = 0x26#8) ∧
  (keySchedule 0xB0B1#16).toList =
    [0xB1#8, 0xB0#8, 0xB3#8, 0x8B#8, 0x2A#8, 0x20#8, 0x44#8, 0x26#8] ∧
  ∀ s : State, s.fce.pend.pkin = 0xB0B1#16 → ∃ t, exec .loadKey s = .next t ∧
    t.fce.memRead 0x20#6 4 = .ok 0x8BB3B0B1#32 ∧ t.fce.memRead 0x24#6 4 = .ok 0x2644202A#32

/-- R155: XOR, byte substitution, rotation by 2, and the example. -/
def Obligations.RoundFunctionIsXorSubstituteRotate : Prop :=
  (∀ r k : Byte, roundFunction r k = rotl8 (sub8 (r ^^^ k)) 2) ∧
  0x62#8 ^^^ 0xB1#8 = 0xD3#8 ∧ sub8 0xD3#8 = 0x2D#8 ∧ rotl8 0x2D#8 2 = 0xB4#8 ∧
  roundFunction 0x62#8 0xB1#8 = 0xB4#8

/-- R156: for each round key the round function is a bijection on bytes. -/
def Obligations.RoundFunctionIsABijectionForEachKey : Prop :=
  ∀ k : Byte, Function.Bijective (fun r => roundFunction r k)

/-- R157 and R158: the halves of the eight rounds, the output order R8 ++ L8, and that ENC and DEC are
the one routine with the round keys in the two orders. -/
def Obligations.EightRoundsThenSecondHalfFirst : Prop :=
  (∀ (b : Block) (k : RoundKeys), ∃ L R : Nat → Byte,
    L 0 = b.extractLsb' 8 8 ∧ R 0 = b.extractLsb' 0 8 ∧
    (∀ i ki, k.toList[i]? = some ki → L (i + 1) = R i ∧ R (i + 1) = L i ^^^ roundFunction (R i) ki) ∧
    (rounds8 b k).extractLsb' 8 8 = R 8 ∧ (rounds8 b k).extractLsb' 0 8 = L 8) ∧
  (∀ (k : RoundKeys) (b : Block),
    enc k b = rounds8 b ⟨k.k0, k.k1, k.k2, k.k3, k.k4, k.k5, k.k6, k.k7⟩ ∧
    dec k b = rounds8 b ⟨k.k7, k.k6, k.k5, k.k4, k.k3, k.k2, k.k1, k.k0⟩)

/-- R159: ENC and DEC undo each other and are permutations, for every round-key set; with a round-key
set that is its own mirror they are equal and an involution; and exactly two keys have such a set. -/
def Obligations.DecryptUndoesEncrypt : Prop :=
  (∀ (k : RoundKeys) (b : Block), dec k (enc k b) = b ∧ enc k (dec k b) = b) ∧
  (∀ k : RoundKeys, Function.Bijective (enc k) ∧ Function.Bijective (dec k)) ∧
  (∀ k : RoundKeys, k.reversed = k → ∀ b, enc k b = dec k b ∧ enc k (enc k b) = b) ∧
  (∀ key : Block, (keySchedule key).reversed = keySchedule key ↔ key = 0x0000#16 ∨ key = 0xFFFF#16)

/-! ### The commands -/

/-- R195: NOP leaves everything but the STATUS life-cycle; its word; and the example from reset. -/
def Obligations.NopOnlyCompletes : Prop :=
  (∀ s : State, exec .nop s = .next { s with fce := { s.fce with
    busy := false, done := true, err := false, errCode := 0x0#4 } }) ∧
  encode .nop = 0x00000000#32 ∧ decodeWord 0x00000000#32 = .nop ∧
  ∃ t, Sys2Proof.core.run 2
      { State.reset with agenda := [.access (.write 0x04#6 4 0x00000000#32), .engine] } = .next t ∧
    t.fce.memRead 0x08#6 4 = .ok 0x00000002#32 ∧
    ∀ off : Offset, off ≠ 0x08#6 → t.fce.memRead off 4 = Fce.reset.memRead off 4

/-- R140: LOAD_KEY stores the key and its round keys and nothing else but STATUS, in every state; its
word; loading the loaded key again; key 0; and the example. -/
def Obligations.LoadKeyStoresKeyAndRoundKeys : Prop :=
  (∀ s : State, exec .loadKey s = .next { s with fce := { s.fce with
    key := s.fce.pend.pkin, rk := keySchedule s.fce.pend.pkin, keyValid := true,
    busy := false, done := true, err := false, errCode := 0x0#4 } }) ∧
  encode .loadKey = 0x00000001#32 ∧ decodeWord 0x00000001#32 = .loadKey ∧
  (∀ s t : State, s.fce.CipherInv → s.fce.keyValid = true → s.fce.key = s.fce.pend.pkin →
    exec .loadKey s = .next t →
    t.fce.key = s.fce.key ∧ t.fce.rk = s.fce.rk ∧ t.fce.keyValid = s.fce.keyValid) ∧
  keySchedule 0x0000#16 = ⟨0x00#8, 0x00#8, 0x00#8, 0x00#8, 0x00#8, 0x00#8, 0x00#8, 0x00#8⟩ ∧
  (∀ s : State, s.Issues 0x00000001#32 → s.fce.kin = 0xB0B1#16 → s.fce.errAny = false →
    s.fce.overrun = false → ∃ t, Sys2Proof.core.run 2 s = .next t ∧
      t.fce.key = 0xB0B1#16 ∧ t.fce.rk03Word = 0x8BB3B0B1#32 ∧ t.fce.rk47Word = 0x2644202A#32 ∧
      t.fce.statusWord = 0x00000102#32)

/-- R145: DELETE_KEY clears the cipher state and writes nothing else but STATUS, in every state; its
word; a delete with no key loaded; the commands that then raise NO_KEY_LOADED; and the example. -/
def Obligations.DeleteKeyClearsTheCipherState : Prop :=
  (∀ s : State, exec .deleteKey s = .next { s with fce := { s.fce with
    key := 0x0000#16, keyValid := false,
    rk := ⟨0x00#8, 0x00#8, 0x00#8, 0x00#8, 0x00#8, 0x00#8, 0x00#8, 0x00#8⟩,
    busy := false, done := true, err := false, errCode := 0x0#4 } }) ∧
  encode .deleteKey = 0x00000002#32 ∧ decodeWord 0x00000002#32 = .deleteKey ∧
  (∀ s t : State, s.fce.CipherInv → s.fce.keyValid = false → exec .deleteKey s = .next t →
    t.fce.key = s.fce.key ∧ t.fce.rk = s.fce.rk ∧ t.fce.keyValid = s.fce.keyValid) ∧
  (∀ (s t u : State) (i : Instr), i = .encrypt ∨ i = .decrypt → exec .deleteKey s = .next t →
    u.fce.keyValid = t.fce.keyValid →
    exec i u = .next { u with fce := u.fce.raiseStatus .noKeyLoaded }) ∧
  (∀ s : State, s.Issues 0x00000002#32 → s.fce.errAny = false → s.fce.overrun = false →
    ∃ t, Sys2Proof.core.run 2 s = .next t ∧ t.fce.key = 0x0000#16 ∧
      t.fce.rk03Word = 0x00000000#32 ∧ t.fce.rk47Word = 0x00000000#32 ∧
      t.fce.statusWord = 0x00000002#32)

/-- R160: with a key loaded ENCRYPT puts ENC of the operand into DOUT and writes nothing else but
STATUS; without one it raises NO_KEY_LOADED and writes STATUS only; its word; that no host access
between acceptance and completion changes RK or KEY_VALID; and the examples. -/
def Obligations.EncryptWritesTheCiphertext : Prop :=
  (∀ s : State, s.fce.keyValid = true → exec .encrypt s = .next { s with fce := { s.fce with
    dout := enc s.fce.rk s.fce.pend.pdin,
    busy := false, done := true, err := false, errCode := 0x0#4 } }) ∧
  (∀ s : State, s.fce.keyValid = false → exec .encrypt s = .next { s with fce := { s.fce with
    busy := false, done := true, err := true, errCode := 0x1#4, errAny := true } }) ∧
  encode .encrypt = 0x00000003#32 ∧ decodeWord 0x00000003#32 = .encrypt ∧
  (∀ (f : Fce) (a : Access), (f.access a).1.rk = f.rk ∧ (f.access a).1.keyValid = f.keyValid) ∧
  enc (keySchedule 0x0000#16) 0x0000#16 = 0x0000#16 ∧
  enc (keySchedule 0x0000#16) 0xFFFF#16 = 0xFFFF#16 ∧
  (∀ s : State, s.Issues 0x00000003#32 → s.fce.keyValid = true → s.fce.rk = keySchedule 0xB0B1#16 →
    s.fce.din = 0x6162#16 → ∃ t, Sys2Proof.core.run 2 s = .next t ∧ t.fce.dout = 0xB894#16)

/-- R165: with a key loaded DECRYPT puts DEC of the operand into DOUT and writes nothing else but
STATUS; without one it raises NO_KEY_LOADED and writes STATUS only; its word; that it undoes ENCRYPT;
the two keys for which the two agree; and the example. -/
def Obligations.DecryptWritesThePlaintext : Prop :=
  (∀ s : State, s.fce.keyValid = true → exec .decrypt s = .next { s with fce := { s.fce with
    dout := dec s.fce.rk s.fce.pend.pdin,
    busy := false, done := true, err := false, errCode := 0x0#4 } }) ∧
  (∀ s : State, s.fce.keyValid = false → exec .decrypt s = .next { s with fce := { s.fce with
    busy := false, done := true, err := true, errCode := 0x1#4, errAny := true } }) ∧
  encode .decrypt = 0x00000004#32 ∧ decodeWord 0x00000004#32 = .decrypt ∧
  (∀ s t u v : State, s.fce.keyValid = true → exec .encrypt s = .next t →
    u.fce.keyValid = true → u.fce.rk = s.fce.rk → u.fce.pend.pdin = t.fce.dout →
    exec .decrypt u = .next v → v.fce.dout = s.fce.pend.pdin) ∧
  (∀ (key b : Block), key = 0x0000#16 ∨ key = 0xFFFF#16 →
    dec (keySchedule key) b = enc (keySchedule key) b) ∧
  (∀ s : State, s.Issues 0x00000004#32 → s.fce.keyValid = true → s.fce.rk = keySchedule 0xB0B1#16 →
    s.fce.din = 0xB894#16 → ∃ t, Sys2Proof.core.run 2 s = .next t ∧ t.fce.dout = 0x6162#16)

/-- R180: COMPRESS loads the chaining value and encrypts the message under it, and writes nothing else
but STATUS, in every state; its word; that its cipher-state effect is LOAD_KEY's and its DOUT that of
an ENCRYPT of the message accepted after that load; the zero digest; and the example. -/
def Obligations.CompressLoadsAndEncrypts : Prop :=
  (∀ s : State, exec .compress s = .next { s with fce := { s.fce with
    key := s.fce.pend.pkin, rk := keySchedule s.fce.pend.pkin, keyValid := true,
    dout := rounds8 s.fce.pend.pdin (keySchedule s.fce.pend.pkin),
    busy := false, done := true, err := false, errCode := 0x0#4 } }) ∧
  encode .compress = 0x00000005#32 ∧ decodeWord 0x00000005#32 = .compress ∧
  (∀ s t u v : State, exec .loadKey s = .next t →
    exec .encrypt { t with fce := { t.fce with din := s.fce.pend.pdin }.accept (encode .encrypt) } =
      .next u →
    exec .compress s = .next v →
    v.fce.key = t.fce.key ∧ v.fce.rk = t.fce.rk ∧ v.fce.keyValid = t.fce.keyValid ∧
    v.fce.key = u.fce.key ∧ v.fce.rk = u.fce.rk ∧ v.fce.keyValid = u.fce.keyValid ∧
    v.fce.dout = u.fce.dout) ∧
  rounds8 0x0000#16 (keySchedule 0x0000#16) = 0x0000#16 ∧
  (∀ s : State, s.Issues 0x00000005#32 → s.fce.din = 0x6162#16 → s.fce.kin = 0xB0B1#16 →
    s.fce.errAny = false → s.fce.overrun = false → ∃ t, Sys2Proof.core.run 2 s = .next t ∧
      t.fce.dout = 0xB894#16 ∧ t.fce.key = 0xB0B1#16 ∧ t.fce.statusWord = 0x00000102#32)

/-- R125: with an index up to 15 SBOX puts the zero-extended table entry into DOUT and writes nothing
else but STATUS; with a larger one it raises INVALID_INPUT and writes STATUS only; its word; and the
corner cases and the example. -/
def Obligations.SboxLooksUpTheTable : Prop :=
  (∀ s : State, s.fce.pend.pdin.extractLsb' 4 12 = 0#12 →
    exec .sbox s = .next { s with fce := { s.fce with
      dout := (sboxLookup (s.fce.pend.pdin.extractLsb' 0 4)).setWidth 16,
      busy := false, done := true, err := false, errCode := 0x0#4 } }) ∧
  (∀ s : State, s.fce.pend.pdin.extractLsb' 4 12 ≠ 0#12 →
    exec .sbox s = .next { s with fce := { s.fce with
      busy := false, done := true, err := true, errCode := 0x3#4, errAny := true } }) ∧
  encode .sbox = 0x00000006#32 ∧ decodeWord 0x00000006#32 = .sbox ∧
  (∀ s t : State, exec .sbox s = .next t →
    (s.fce.pend.pdin = 0x0000#16 → t.fce.dout = 0x0000#16) ∧
    (s.fce.pend.pdin = 0x000F#16 → t.fce.dout = 0x000A#16) ∧
    (s.fce.pend.pdin = 0x0010#16 ∨ s.fce.pend.pdin = 0xFFFF#16 →
      t.fce.errCode = 0x3#4 ∧ t.fce.dout = s.fce.dout)) ∧
  (∀ s : State, s.Issues 0x00000006#32 → s.fce.din = 0x0004#16 → s.fce.keyValid = false →
    s.fce.errAny = false → s.fce.overrun = false → ∃ t, Sys2Proof.core.run 2 s = .next t ∧
      t.fce.dout = 0x0009#16 ∧ t.fce.statusWord = 0x00000002#32)

/-- R94: an illegal word is accepted like any other, completes with INVALID_COMMAND and changes nothing
but STATUS; the reserved opcodes and every word with a reserved bit set are among them; and no word
but 0 is a NOP. -/
def Obligations.IllegalWordCompletesWithInvalidCommand : Prop :=
  (∀ (c : Word) (s : State), exec (.illegal c) s = .next { s with fce := { s.fce with
    busy := false, done := true, err := true, errCode := 0x4#4, errAny := true } }) ∧
  (∀ (c : Word) (f : Fce), legalWord c = false → f.busy = false →
    f.memWrite 0x04#6 4 c = .ok { f with
      lastCmd := c, pend := ⟨c, f.din, f.kin⟩,
      busy := true, done := false, err := false, errCode := 0x0#4 } ∧ decodeWord c = .illegal c) ∧
  (∀ c : Word, 7 ≤ (c.extractLsb' 0 4).toNat ∨ c.extractLsb' 4 28 ≠ 0#28 → legalWord c = false) ∧
  (∀ c : Word, decodeWord c = .nop → c = 0x00000000#32)

/-- R91: for each command its word; that beyond the STATUS effects of a completion it writes no
register but those its row names; and that what it writes there depends only on the operands its row
names. -/
def Obligations.CommandsReadAndWriteTheirRowOnly : Prop :=
  ([Instr.nop, .loadKey, .deleteKey, .encrypt, .decrypt, .compress, .sbox].map encode =
    [0x0#32, 0x1#32, 0x2#32, 0x3#32, 0x4#32, 0x5#32, 0x6#32]) ∧
  (∀ (i : Instr) (s t : State), exec i s = .next t →
    (i ∉ [Instr.loadKey, .deleteKey, .compress] →
      t.fce.key = s.fce.key ∧ t.fce.rk = s.fce.rk ∧ t.fce.keyValid = s.fce.keyValid) ∧
    (i ∉ [Instr.encrypt, .decrypt, .compress, .sbox] → t.fce.dout = s.fce.dout) ∧
    t.fce.din = s.fce.din ∧ t.fce.kin = s.fce.kin ∧ t.fce.lastCmd = s.fce.lastCmd ∧
    t.fce.doneIe = s.fce.doneIe ∧ t.fce.overrun = s.fce.overrun) ∧
  (∀ s s' t t' : State, s.fce.pend.pkin = s'.fce.pend.pkin →
    exec .loadKey s = .next t → exec .loadKey s' = .next t' →
    t.fce.key = t'.fce.key ∧ t.fce.rk = t'.fce.rk ∧ t.fce.keyValid = t'.fce.keyValid) ∧
  (∀ s s' t t' : State, exec .deleteKey s = .next t → exec .deleteKey s' = .next t' →
    t.fce.key = t'.fce.key ∧ t.fce.rk = t'.fce.rk ∧ t.fce.keyValid = t'.fce.keyValid) ∧
  (∀ (i : Instr) (s s' t t' : State), i = .encrypt ∨ i = .decrypt →
    s.fce.pend.pdin = s'.fce.pend.pdin → s.fce.rk = s'.fce.rk →
    s.fce.keyValid = s'.fce.keyValid → s.fce.dout = s'.fce.dout →
    exec i s = .next t → exec i s' = .next t' → t.fce.dout = t'.fce.dout) ∧
  (∀ s s' t t' : State, s.fce.pend.pdin = s'.fce.pend.pdin → s.fce.pend.pkin = s'.fce.pend.pkin →
    exec .compress s = .next t → exec .compress s' = .next t' →
    t.fce.key = t'.fce.key ∧ t.fce.rk = t'.fce.rk ∧ t.fce.keyValid = t'.fce.keyValid ∧
    t.fce.dout = t'.fce.dout) ∧
  (∀ s s' t t' : State, s.fce.pend.pdin = s'.fce.pend.pdin → s.fce.dout = s'.fce.dout →
    exec .sbox s = .next t → exec .sbox s' = .next t' → t.fce.dout = t'.fce.dout)

/-- The frame of every command: the host's registers, the command word, the snapshot, the overrun flag
and everything outside the FCE stay as they were. Three clauses are the model's own: that PEND, which
has no value while BUSY = 0, stays as it was is notes/assumptions/10.md; the agenda and the answers are
fields of the model, notes/assumptions/1.md and 9.md. -/
def Obligations.EveryCommandLeavesTheHostRegistersAlone : Prop :=
  ∀ (i : Instr) (s t : State), exec i s = .next t →
    t.fce.din = s.fce.din ∧ t.fce.kin = s.fce.kin ∧ t.fce.lastCmd = s.fce.lastCmd ∧
    t.fce.doneIe = s.fce.doneIe ∧ t.fce.overrun = s.fce.overrun ∧ t.fce.pend = s.fce.pend ∧
    t.inReset = s.inReset ∧ t.agenda = s.agenda ∧ t.answers = s.answers

/-- The frame of every command in the address space, which is the window: a read of any offset, of any
width, that is not STATUS or a register of the command's row answers after as before. -/
def Obligations.EveryOtherWindowReadIsUnchanged : Prop :=
  ∀ (i : Instr) (s t : State) (off : Offset) (n : Nat), exec i s = .next t →
    off ∉ writtenOffsets i → t.fce.memRead off n = s.fce.memRead off n

/-- R181: DECRYPT of a target under a chaining value is a message that COMPRESS takes to the target;
and the example. -/
def Obligations.DecryptFindsACompressPreimage : Prop :=
  (∀ (s t : State) (target : Block),
    s.fce.pend.pdin = dec (keySchedule s.fce.pend.pkin) target → exec .compress s = .next t →
    t.fce.dout = target) ∧
  dec (keySchedule 0x1234#16) 0x0000#16 = 0x1F76#16 ∧
  (∀ s t : State, s.fce.pend.pdin = 0x1F76#16 → s.fce.pend.pkin = 0x1234#16 →
    exec .compress s = .next t → t.fce.dout = 0x0000#16)

/-- R247: after COMPRESS, ENCRYPT and DECRYPT of any block use the chaining value as the key, whatever
key was loaded before; and a LOAD_KEY gives them the key loaded. Each command in turn is accepted, with
DIN and KIN as the host has written them, before it completes. -/
def Obligations.CompressReplacesTheLoadedKey : Prop :=
  ∀ (s t : State) (b k : Block), exec .compress s = .next t →
    let issue (x : State) (i : Instr) : State :=
      { x with fce := { x.fce with din := b, kin := k }.accept (encode i) }
    (∃ v, exec .encrypt (issue t .encrypt) = .next v ∧
      v.fce.dout = enc (keySchedule s.fce.pend.pkin) b) ∧
    (∃ v, exec .decrypt (issue t .decrypt) = .next v ∧
      v.fce.dout = dec (keySchedule s.fce.pend.pkin) b) ∧
    (∃ u, exec .loadKey (issue t .loadKey) = .next u ∧
      (∃ v, exec .encrypt (issue u .encrypt) = .next v ∧ v.fce.dout = enc (keySchedule k) b) ∧
      ∃ v, exec .decrypt (issue u .decrypt) = .next v ∧ v.fce.dout = dec (keySchedule k) b)

/-! ### Errors and completion -/

/-- R201: the only errors each command can raise, and exactly when. -/
def Obligations.EachCommandRaisesOnlyItsErrors : Prop :=
  ∀ (i : Instr) (s t : State), exec i s = .next t →
    (t.fce.errCode = 0x1#4 ↔ (i = .encrypt ∨ i = .decrypt) ∧ s.fce.keyValid = false) ∧
    (t.fce.errCode = 0x3#4 ↔ i = .sbox ∧ s.fce.pend.pdin.extractLsb' 4 12 ≠ 0#12) ∧
    (t.fce.errCode = 0x4#4 ↔ ∃ c, i = .illegal c) ∧
    t.fce.errCode ∈ [0x0#4, 0x1#4, 0x3#4, 0x4#4] ∧
    (t.fce.err = true ↔ t.fce.errCode ≠ 0x0#4)

/-- R203: an error changes nothing but STATUS, and the next command is accepted as usual with ERR_ANY
still set. -/
def Obligations.ErrorChangesOnlyStatus : Prop :=
  ∀ (i : Instr) (s t : State), exec i s = .next t → t.fce.err = true →
    t = { s with fce := { s.fce with
      busy := false, done := true, err := true, errCode := t.fce.errCode, errAny := true } } ∧
    ∀ v : Word, t.fce.memWrite 0x04#6 4 v = .ok { t.fce with
      lastCmd := v, pend := ⟨v, t.fce.din, t.fce.kin⟩,
      busy := true, done := false, err := false, errCode := 0x0#4 }

/-- R106: what every completion does to STATUS, and that a W1C write of DONE just before it leaves DONE
set. -/
def Obligations.CompletionSetsStatus : Prop :=
  (∀ (i : Instr) (s t : State), exec i s = .next t →
    t.fce.busy = false ∧ t.fce.done = true ∧
    ((t.fce.err = false ∧ t.fce.errCode = 0x0#4 ∧ t.fce.errAny = s.fce.errAny) ∨
      ∃ e : ErrorKind, t.fce.err = true ∧ t.fce.errCode = e.code ∧ t.fce.errAny = true)) ∧
  (∀ (s : State) (v : Word) (rest : List Event), s.engineEnabled = true →
    s.agenda = .access (.write 0x08#6 4 v) :: .engine :: rest →
    ∃ t, Sys2Proof.core.run 2 s = .next t ∧ t.fce.done = true)

/-! ### Acceptance and the operands -/

/-- R103 and R104: a word written to CMD of an idle FCE is accepted, with the snapshot of DIN and KIN
and the STATUS effects of acceptance, and nothing else changes; while busy it is dropped with OVERRUN;
and no later access changes the snapshot of the running command. -/
def Obligations.CommandWriteLatchesTheOperands : Prop :=
  (∀ (f : Fce) (v : Word), f.busy = false → f.memWrite 0x04#6 4 v = .ok { f with
    lastCmd := v, pend := ⟨v, f.din, f.kin⟩,
    busy := true, done := false, err := false, errCode := 0x0#4 }) ∧
  (∀ (f : Fce) (v : Word), f.busy = true → f.memWrite 0x04#6 4 v = .ok { f with overrun := true }) ∧
  (∀ (f : Fce) (a : Access), f.busy = true → (f.access a).1.pend = f.pend)

/-- R107: a command word written while busy sets OVERRUN and changes nothing else, and the running
command completes as it would have. -/
def Obligations.CommandWriteWhileBusyIsDropped : Prop :=
  (∀ (f : Fce) (v : Word), f.busy = true → f.memWrite 0x04#6 4 v = .ok { f with overrun := true }) ∧
  (∀ (i : Instr) (s t : State), exec i s = .next t →
    exec i { s with fce := { s.fce with overrun := true } } =
      .next { t with fce := { t.fce with overrun := true } })

/-- R248: DIN and KIN may be rewritten once a command is accepted without disturbing it, and a write
before the CMD write is always an operand of that command. -/
def Obligations.OperandRewriteDoesNotDisturbTheCommand : Prop :=
  (∀ (i : Instr) (s t : State) (d k : Block), exec i s = .next t →
    exec i { s with fce := { s.fce with din := d, kin := k } } =
      .next { t with fce := { t.fce with din := d, kin := k } }) ∧
  (∀ (f : Fce) (v c : Word), f.busy = false → ∃ g h, f.memWrite 0x10#6 4 v = .ok g ∧
    g.memWrite 0x04#6 4 c = .ok h ∧ h.pend.pdin = v.extractLsb' 0 16) ∧
  (∀ (f : Fce) (v c : Word), f.busy = false → ∃ g h, f.memWrite 0x14#6 4 v = .ok g ∧
    g.memWrite 0x04#6 4 c = .ok h ∧ h.pend.pkin = v.extractLsb' 0 16)

/-! ### The register window -/

/-- R61: an instance decodes exactly the 64 addresses from its BASE_ADDR, each at its offset. -/
def Obligations.WindowDecodesItsOwnAddresses : Prop :=
  ∀ k addr : Nat,
    (Config.baseAddr k ≤ addr ∧ addr < Config.baseAddr k + 64 →
      ∃ off, windowOffset k addr = some off ∧ off.toNat = addr - Config.baseAddr k) ∧
    (addr < Config.baseAddr k ∨ Config.baseAddr k + 64 ≤ addr → windowOffset k addr = none)

/-- R65: what a host read returns at each offset of the window, and that it changes nothing. -/
def Obligations.HostReadReturnsTheRegister : Prop :=
  (∀ (k : Nat) (f : Fce),
    let rd := fun off => memReadAt k f (Config.baseAddr k + off) 4
    rd 0x00 = some (.ok 0x46434531#32) ∧
    rd 0x04 = some (.ok f.lastCmd) ∧
    rd 0x08 = some (.ok ((BitVec.ofBool f.overrun ++ BitVec.ofBool f.keyValid ++ f.errCode ++
      BitVec.ofBool f.errAny ++ BitVec.ofBool f.err ++ BitVec.ofBool f.done ++
      BitVec.ofBool f.busy).setWidth 32)) ∧
    rd 0x0C = some (.ok ((BitVec.ofBool f.doneIe).setWidth 32)) ∧
    rd 0x10 = some (.ok (f.din.setWidth 32)) ∧
    rd 0x14 = some (.ok (f.kin.setWidth 32)) ∧
    rd 0x18 = some (.ok (f.dout.setWidth 32)) ∧
    rd 0x1C = some (.ok (f.key.setWidth 32)) ∧
    rd 0x20 = some (.ok (f.rk.k3 ++ f.rk.k2 ++ f.rk.k1 ++ f.rk.k0)) ∧
    rd 0x24 = some (.ok (f.rk.k7 ++ f.rk.k6 ++ f.rk.k5 ++ f.rk.k4)) ∧
    (∀ off ∈ [0x28, 0x2C, 0x30, 0x34, 0x38, 0x3C], rd off = some (.ok 0x00000000#32))) ∧
  (∀ (k : Nat) (f : Fce) (off n : Nat), off < 64 → n ≠ 4 ∨ off % 4 ≠ 0 →
    memReadAt k f (Config.baseAddr k + off) n = some (.error .busError)) ∧
  (∀ (f : Fce) (off : Offset) (n : Nat), (f.access (.read off n)).1 = f)

/-- R66: what a host write does at each offset of the window. -/
def Obligations.HostWriteChangesTheRegister : Prop :=
  (∀ (k : Nat) (f : Fce) (v : Word),
    let wr := fun off => memWriteAt k f (Config.baseAddr k + off) 4 v
    (f.busy = false → wr 0x04 = some (.ok { f with
      lastCmd := v, pend := ⟨v, f.din, f.kin⟩,
      busy := true, done := false, err := false, errCode := 0x0#4 })) ∧
    (f.busy = true → wr 0x04 = some (.ok { f with overrun := true })) ∧
    wr 0x08 = some (.ok { f with
      done := f.done && !v.getLsbD 1, errAny := f.errAny && !v.getLsbD 3,
      overrun := f.overrun && !v.getLsbD 9 }) ∧
    wr 0x0C = some (.ok { f with doneIe := v.getLsbD 0 }) ∧
    wr 0x10 = some (.ok { f with din := v.extractLsb' 0 16 }) ∧
    wr 0x14 = some (.ok { f with kin := v.extractLsb' 0 16 }) ∧
    (∀ off ∈ [0x00, 0x18, 0x1C, 0x20, 0x24, 0x28, 0x2C, 0x30, 0x34, 0x38, 0x3C],
      wr off = some (.ok f))) ∧
  (∀ (k : Nat) (f : Fce) (v : Word) (off n : Nat), off < 64 → n ≠ 4 ∨ off % 4 ≠ 0 →
    memWriteAt k f (Config.baseAddr k + off) n v = some (.error .busError))

/-- R62: an access that is not 32 bits wide at a multiple of 4 is answered with a bus error and changes
no register, whatever the registers hold; any other access of the window is answered without a
fault. -/
def Obligations.UnsupportedAccessIsABusError : Prop :=
  (∀ (f : Fce) (off : Offset) (n : Nat) (v : Word), ¬ (n = 4 ∧ off.toNat % 4 = 0) →
    f.memRead off n = .error .busError ∧ f.memWrite off n v = .error .busError ∧
    f.access (.read off n) = (f, .fault .busError) ∧
    f.access (.write off n v) = (f, .fault .busError)) ∧
  (∀ (f : Fce) (off : Offset) (v : Word), off.toNat % 4 = 0 →
    (∃ w, f.memRead off 4 = .ok w ∧ f.access (.read off 4) = (f, .data w)) ∧
    ∃ g, f.memWrite off 4 v = .ok g ∧ f.access (.write off 4 v) = (g, .ack))

/-- R23: ID reads as the constant in every state, byte by byte "FCE1", and a write to it is ignored. -/
def Obligations.IdReadsAsTheConstant : Prop :=
  ∀ (f : Fce) (v : Word), f.memRead 0x00#6 4 = .ok 0x46434531#32 ∧ f.memWrite 0x00#6 4 v = .ok f ∧
    idWord.extractLsb' 24 8 = 0x46#8 ∧ idWord.extractLsb' 16 8 = 0x43#8 ∧
    idWord.extractLsb' 8 8 = 0x45#8 ∧ idWord.extractLsb' 0 8 = 0x31#8

/-- R25: which bit of STATUS each flag is, and what a host write to STATUS can and cannot change. -/
def Obligations.StatusBitsAreTheFlags : Prop :=
  (∀ f : Fce, ∃ w, f.memRead 0x08#6 4 = .ok w ∧
    w.getLsbD 0 = f.busy ∧ w.getLsbD 1 = f.done ∧ w.getLsbD 2 = f.err ∧ w.getLsbD 3 = f.errAny ∧
    w.extractLsb' 4 4 = f.errCode ∧ w.getLsbD 8 = f.keyValid ∧ w.getLsbD 9 = f.overrun ∧
    w.extractLsb' 10 22 = 0#22) ∧
  (∀ (f : Fce) (v : Word), ∃ g, f.memWrite 0x08#6 4 v = .ok g ∧
    (g.done = true ↔ f.done = true ∧ v.getLsbD 1 = false) ∧
    (g.errAny = true ↔ f.errAny = true ∧ v.getLsbD 3 = false) ∧
    (g.overrun = true ↔ f.overrun = true ∧ v.getLsbD 9 = false) ∧
    g = { f with done := g.done, errAny := g.errAny, overrun := g.overrun })

/-- R31 and R32: where each round key stands in RK0_3 and RK4_7, and their reset value. -/
def Obligations.RoundKeysReadBack : Prop :=
  (∀ f : Fce, ∃ a b, f.memRead 0x20#6 4 = .ok a ∧ f.memRead 0x24#6 4 = .ok b ∧
    a = f.rk.k3 ++ f.rk.k2 ++ f.rk.k1 ++ f.rk.k0 ∧ b = f.rk.k7 ++ f.rk.k6 ++ f.rk.k5 ++ f.rk.k4 ∧
    a.extractLsb' 0 8 = f.rk.k0 ∧ a.extractLsb' 8 8 = f.rk.k1 ∧
    a.extractLsb' 16 8 = f.rk.k2 ∧ a.extractLsb' 24 8 = f.rk.k3 ∧
    b.extractLsb' 0 8 = f.rk.k4 ∧ b.extractLsb' 8 8 = f.rk.k5 ∧
    b.extractLsb' 16 8 = f.rk.k6 ∧ b.extractLsb' 24 8 = f.rk.k7) ∧
  (∀ (f : Fce) (v : Word), f.memWrite 0x20#6 4 v = .ok f ∧ f.memWrite 0x24#6 4 v = .ok f) ∧
  Fce.reset.memRead 0x20#6 4 = .ok 0x00000000#32 ∧ Fce.reset.memRead 0x24#6 4 = .ok 0x00000000#32

/-- R64: byte0 * 256 + byte1 in a written word is the operand, whose high byte is byte0 and whose low
byte is byte1; DOUT gives its bytes in the same places; and the two examples. -/
def Obligations.FirstByteOfABlockIsTheHighByte : Prop :=
  (∀ a b : Byte, (blockOfBytes a b).toNat = a.toNat * 256 + b.toNat ∧
    (blockOfBytes a b).extractLsb' 8 8 = a ∧ (blockOfBytes a b).extractLsb' 0 8 = b) ∧
  (∀ (f : Fce) (a b : Byte) (v : Word), v.extractLsb' 8 8 = a → v.extractLsb' 0 8 = b → ∃ g h,
    f.memWrite 0x10#6 4 v = .ok g ∧ g.din = blockOfBytes a b ∧
    f.memWrite 0x14#6 4 v = .ok h ∧ h.kin = blockOfBytes a b) ∧
  (∀ (f : Fce) (a b : Byte), f.dout = blockOfBytes a b → ∃ w, f.memRead 0x18#6 4 = .ok w ∧
    w.extractLsb' 8 8 = a ∧ w.extractLsb' 0 8 = b) ∧
  blockOfBytes 0x61#8 0x62#8 = 0x6162#16 ∧ blockOfBytes 0xB0#8 0xB1#8 = 0xB0B1#16

/-- R67: reads change no register; writes to STATUS, IRQ_EN, DIN and KIN are idempotent; a write to CMD
is not: on an idle FCE each issues one command, and while it runs the same write is an overrun. -/
def Obligations.ReadsAreFreeAndOnlyCommandWritesRepeat : Prop :=
  (∀ (f : Fce) (off : Offset) (n : Nat), (f.access (.read off n)).1 = f) ∧
  (∀ (f g h : Fce) (off : Offset) (v : Word), off ∈ [0x08#6, 0x0C#6, 0x10#6, 0x14#6] →
    f.memWrite off 4 v = .ok g → g.memWrite off 4 v = .ok h → h = g) ∧
  (∀ (f g h : Fce) (v : Word), f.busy = false → f.overrun = false →
    f.memWrite 0x04#6 4 v = .ok g → g.memWrite 0x04#6 4 v = .ok h →
    g.busy = true ∧ g.overrun = false ∧ h.overrun = true)

/-! ### The interrupt -/

/-- R210: the line is DONE_IE AND DONE; every completion, with or without error, drives it to DONE_IE;
and the three ways of clearing it. -/
def Obligations.InterruptFollowsDone : Prop :=
  (∀ s : State, s.irq = (s.fce.doneIe && s.fce.done)) ∧
  (∀ (i : Instr) (s t : State), exec i s = .next t → t.irq = s.fce.doneIe) ∧
  (∀ (f g : Fce) (v : Word), v.getLsbD 1 = true → f.memWrite 0x08#6 4 v = .ok g → g.irq = false) ∧
  (∀ (f g : Fce) (v : Word), f.busy = false → f.memWrite 0x04#6 4 v = .ok g → g.irq = false) ∧
  (∀ (f g : Fce) (v : Word), v.getLsbD 0 = false → f.memWrite 0x0C#6 4 v = .ok g →
    g.irq = false ∧ g.done = f.done)

/-- R211: the line rises only at a completion, or when the host enables it while DONE is set. -/
def Obligations.NothingElseRaisesTheInterrupt : Prop :=
  ∀ s t : State, step s = .next t → s.irq = false → t.irq = true →
    s.CompletesNext ∨ ∃ v rest, s.agenda = .access (.write 0x0C#6 4 v) :: rest ∧
      v.getLsbD 0 = true ∧ s.fce.done = true

/-! ### The step -/

/-- When the engine moves and the lanes of the pending word decode to a well-formed command, the step
is that command's completion, with the engine's turn taken off the agenda. -/
def Obligations.StepRunsThePendingCommand : Prop :=
  ∀ (s : State) (i : Instr), s.CompletesNext →
    decodeLanes (lanesOfWord s.fce.pend.pcmd) = .ok (i, []) → i.wellFormed = true →
    step s = exec i { s with agenda := s.agenda.tail }

/-- No state is stuck: every step answers a next state. -/
def Obligations.EveryStepAnswersANextState : Prop :=
  ∀ s : State, ∃ t, step s = .next t

/-- The agenda happens in order, one entry a step: an access outside reset changes the registers and is
answered exactly as the window says, a turn of the engine answers no access, and a STATUS read with
BUSY = 0 means that no command is pending. -/
def Obligations.AgendaHappensInOrder : Prop :=
  (∀ (s : State) (a : Access) (rest : List Event), s.inReset = false →
    s.agenda = .access a :: rest →
    step s = .next { s with
      fce := (s.fce.access a).1, agenda := rest, answers := (s.fce.access a).2 :: s.answers }) ∧
  (∀ (s t : State) (rest : List Event), s.agenda = .engine :: rest → step s = .next t →
    t.agenda = rest ∧ t.answers = s.answers ∧ (s.engineEnabled = false → t.fce = s.fce)) ∧
  (∀ (s t : State), s.agenda = [] → s.engineEnabled = false → step s = .next t → t = s) ∧
  (∀ (f : Fce) (w : Word), f.memRead 0x08#6 4 = .ok w → w.getLsbD 0 = false → f.busy = false)

/-- R243: with no reset on the agenda, the pending command itself completes, at the latest when the
agenda is used up. -/
def Obligations.EveryAcceptedCommandCompletes : Prop :=
  ∀ s : State, s.engineEnabled = true → (∀ b, Event.reset b ∉ s.agenda) →
    ∃ n u t, n ≤ s.agenda.length ∧ Sys2Proof.core.run n s = .next u ∧ u.CompletesNext ∧
      u.fce.pend = s.fce.pend ∧ step u = .next t ∧ t.fce.busy = false ∧ t.fce.done = true

/-- R246: a step that is neither a completion nor a change of the reset input leaves DOUT, KEY, the
round keys and KEY_VALID as they were; and acceptance leaves them too. -/
def Obligations.ResultsChangeOnlyAtCompletion : Prop :=
  (∀ s t : State, step s = .next t → ¬ s.CompletesNext → ¬ s.ResetNext →
    t.fce.dout = s.fce.dout ∧ t.fce.key = s.fce.key ∧ t.fce.rk = s.fce.rk ∧
    t.fce.keyValid = s.fce.keyValid) ∧
  (∀ (f : Fce) (v : Word), f.busy = false → ∃ g, f.memWrite 0x04#6 4 v = .ok g ∧
    g.dout = f.dout ∧ g.key = f.key ∧ g.rk = f.rk ∧ g.keyValid = f.keyValid)

/-! ### Invariants -/

/-- R33: every step keeps the cipher-state invariant, reset establishes it, and only LOAD_KEY,
DELETE_KEY and COMPRESS write the cipher state. -/
def Obligations.StepKeepsTheCipherStateInvariant : Prop :=
  (∀ s t : State,
    ((s.fce.keyValid = true → s.fce.rk = keySchedule s.fce.key) ∧
      (s.fce.keyValid = false → s.fce.key = 0x0000#16 ∧ s.fce.rk.toList = List.replicate 8 0x00#8)) →
    step s = .next t →
    ((t.fce.keyValid = true → t.fce.rk = keySchedule t.fce.key) ∧
      (t.fce.keyValid = false → t.fce.key = 0x0000#16 ∧
        t.fce.rk.toList = List.replicate 8 0x00#8))) ∧
  State.reset.fce.CipherInv ∧
  (∀ (i : Instr) (s t : State), exec i s = .next t →
    i ≠ .loadKey → i ≠ .deleteKey → i ≠ .compress →
    t.fce.key = s.fce.key ∧ t.fce.rk = s.fce.rk ∧ t.fce.keyValid = s.fce.keyValid)

/-- Every step keeps the machine's invariant: the cipher state, the life-cycle of STATUS (a running
command has DONE and ERR clear and is LAST_CMD, ERR says that ERRCODE is not 0, ERRCODE is a code
that a completion produces), and the registers during reset. -/
def Obligations.StepKeepsTheMachineInvariant : Prop :=
  ∀ s t : State, s.Inv → step s = .next t → t.Inv

/-- The machine's invariant holds right after reset. -/
def Obligations.ResetStateIsGood : Prop := State.reset.Inv

/-- With no reset on the agenda and only supported accesses, no step answers an access with a fault,
and the rest of the agenda is again such. -/
def Obligations.SupportedAccessesAreNeverFaulted : Prop :=
  ∀ s t : State, s.inReset = false → (∀ b, Event.reset b ∉ s.agenda) →
    (∀ a, Event.access a ∈ s.agenda → a.Supported) → s.NoFaultYet → step s = .next t →
    t.inReset = false ∧ (∀ b, Event.reset b ∉ t.agenda) ∧
    (∀ a, Event.access a ∈ t.agenda → a.Supported) ∧ t.NoFaultYet

/-! ### Reset -/

/-- R240: the registers right after reset and at the end of any reset, the interrupt line, and that no
command runs at reset. -/
def Obligations.EndOfResetLeavesTheStatedValues : Prop :=
  State.reset.fce.AtResetValues ∧ State.reset.inReset = false ∧ State.reset.irq = false ∧
  State.reset.fce.memRead 0x00#6 4 = .ok 0x46434531#32 ∧ step State.reset = .next State.reset ∧
  (∀ (s : State) (rest : List Event), s.inReset = true → s.agenda = .reset false :: rest →
    ∃ t, step s = .next t ∧ t.fce.AtResetValues ∧ t.inReset = false ∧ t.irq = false)

/-- R241: a reset abandons the pending command with none of its effects, whatever turns and accesses
come before it ends; and an access while reset is asserted is a fault and changes no register. -/
def Obligations.ResetAbandonsThePendingCommand : Prop :=
  (∀ (s : State) (a : Access) (rest : List Event),
    s.agenda = .reset true :: .engine :: .access a :: .reset false :: rest →
    ∃ t, Sys2Proof.core.run 4 s = .next t ∧ t.fce.AtResetValues ∧ t.engineEnabled = false ∧
      t.agenda = rest ∧ t.answers = .fault .accessDuringReset :: s.answers) ∧
  (∀ (s : State) (a : Access) (rest : List Event), s.inReset = true → s.agenda = .access a :: rest →
    step s = .next { s with agenda := rest, answers := .fault .accessDuringReset :: s.answers })

/-! ### The platform and the host -/

/-- R225: a step of one instance changes no other; no address is in two windows; an access to an
address of an instance's window reaches that instance and changes no other, and one to an address of no
window changes none (R61); each instance has its own interrupt line; and every instance starts right
after reset, at least one of them. That an access reaches an instance as the last entry of its agenda is
the model's form of arrival order (notes/assumptions/1.md); the windows are the permutation of
notes/assumptions/7.md. -/
def Obligations.InstancesShareNothing : Prop :=
  (∀ (p : Platform) (j k : Nat), j ≠ k → (p.stepInstance k)[j]? = p[j]?) ∧
  (∀ addr j k : Nat, windowOffset j addr ≠ none → windowOffset k addr ≠ none → j = k) ∧
  (∀ (p : Platform) (addr k : Nat) (mk : Offset → Access) (s : State) (off : Offset),
    windowOffset k addr = some off → p[k]? = some s →
    p.arrive addr mk = p.set k { s with agenda := s.agenda ++ [.access (mk off)] }) ∧
  (∀ (p : Platform) (addr : Nat) (mk : Offset → Access),
    (∀ k, k < p.length → windowOffset k addr = none) → p.arrive addr mk = p) ∧
  (∀ (p : Platform) (k : Nat) (s : State), p[k]? = some s →
    p.irqs[k]? = some (s.fce.doneIe && s.fce.done)) ∧
  1 ≤ Platform.reset.length ∧ ∀ s ∈ Platform.reset, s = State.reset

/-- R96: WR and RD of the host notation are one 32-bit access of the named register each, outside
reset. -/
def Obligations.HostStatementsAreBusAccesses : Prop :=
  (∀ (x : Session) (r : Reg) (e : HostExpr), x.program[x.pc]? = some (.wr r e) →
    x.dev.inReset = false → ∃ g, x.dev.fce.memWrite r.offset 4 (e.eval x.vars) = .ok g ∧
      x.hostMove = .next { x with
        pc := x.pc + 1, dev := { x.dev with fce := g, answers := .ack :: x.dev.answers } }) ∧
  (∀ (x : Session) (h : Nat) (r : Reg), x.program[x.pc]? = some (.rd h r) →
    x.dev.inReset = false → ∃ v, x.dev.fce.memRead r.offset 4 = .ok v ∧
      x.hostMove = .next { x with
        pc := x.pc + 1, vars := x.vars.set h v,
        dev := { x.dev with answers := .data v :: x.dev.answers } })
end

