-- ==== Sys2Proof/Laws/Cipher.lean ====
section
/-! SUPPORT. The small lemmas of the cipher functions. -/

namespace Sys2Proof.Machine

@[simp] theorem byte0_blockOfBytes (a b : Byte) : byte0 (blockOfBytes a b) = a := by
  unfold byte0 blockOfBytes
  refine BitVec.eq_of_getLsbD_eq fun i hi => ?_
  rw [BitVec.getLsbD_extractLsb', BitVec.getLsbD_append]
  simp [hi]

@[simp] theorem byte1_blockOfBytes (a b : Byte) : byte1 (blockOfBytes a b) = b := by
  unfold byte1 blockOfBytes
  refine BitVec.eq_of_getLsbD_eq fun i hi => ?_
  rw [BitVec.getLsbD_extractLsb', BitVec.getLsbD_append]
  simp [hi]

/-- A block is its two bytes in order. -/
theorem blockOfBytes_bytes (b : Block) : blockOfBytes (byte0 b) (byte1 b) = b := by
  unfold byte0 byte1 blockOfBytes
  refine BitVec.eq_of_getLsbD_eq fun i hi => ?_
  rw [BitVec.getLsbD_append]
  by_cases h : i < 8
  · simp [h]
  · have h8 : 8 + (i - 8) = i := by omega
    have h16 : i - 8 < 8 := by omega
    simp [h, h8, h16]

@[simp] theorem RoundKeys.reversed_reversed (k : RoundKeys) : k.reversed.reversed = k := rfl

@[simp] theorem RoundKeys.toList_reversed (k : RoundKeys) : k.reversed.toList = k.toList.reverse :=
  rfl

/-- One round, undone by the same round on the exchanged halves. -/
theorem feistelRound_undo (h : Byte × Byte) (k : Byte) :
    feistelRound (feistelRound h k).swap k = h.swap := by
  simp [feistelRound, Prod.swap]

end Sys2Proof.Machine
end

