-- ==== Sys2Proof/Laws/State.lean ====
section
/-! SUPPORT. One lemma for each field of the register record and each update of it, all true by
unfolding the update once. -/

namespace Sys2Proof.Machine

@[simp] theorem Fce.acceptStatus_lastCmd (f : Fce) : f.acceptStatus.lastCmd = f.lastCmd := rfl
@[simp] theorem Fce.acceptStatus_busy (f : Fce) : f.acceptStatus.busy = true := rfl
@[simp] theorem Fce.acceptStatus_done (f : Fce) : f.acceptStatus.done = false := rfl
@[simp] theorem Fce.acceptStatus_err (f : Fce) : f.acceptStatus.err = false := rfl
@[simp] theorem Fce.acceptStatus_errAny (f : Fce) : f.acceptStatus.errAny = f.errAny := rfl
@[simp] theorem Fce.acceptStatus_errCode (f : Fce) : f.acceptStatus.errCode = 0x0#4 := rfl
@[simp] theorem Fce.acceptStatus_keyValid (f : Fce) : f.acceptStatus.keyValid = f.keyValid := rfl
@[simp] theorem Fce.acceptStatus_overrun (f : Fce) : f.acceptStatus.overrun = f.overrun := rfl
@[simp] theorem Fce.acceptStatus_doneIe (f : Fce) : f.acceptStatus.doneIe = f.doneIe := rfl
@[simp] theorem Fce.acceptStatus_din (f : Fce) : f.acceptStatus.din = f.din := rfl
@[simp] theorem Fce.acceptStatus_kin (f : Fce) : f.acceptStatus.kin = f.kin := rfl
@[simp] theorem Fce.acceptStatus_dout (f : Fce) : f.acceptStatus.dout = f.dout := rfl
@[simp] theorem Fce.acceptStatus_key (f : Fce) : f.acceptStatus.key = f.key := rfl
@[simp] theorem Fce.acceptStatus_rk (f : Fce) : f.acceptStatus.rk = f.rk := rfl
@[simp] theorem Fce.acceptStatus_pend (f : Fce) : f.acceptStatus.pend = f.pend := rfl

@[simp] theorem Fce.completeStatus_lastCmd (f : Fce) : f.completeStatus.lastCmd = f.lastCmd := rfl
@[simp] theorem Fce.completeStatus_busy (f : Fce) : f.completeStatus.busy = false := rfl
@[simp] theorem Fce.completeStatus_done (f : Fce) : f.completeStatus.done = true := rfl
@[simp] theorem Fce.completeStatus_err (f : Fce) : f.completeStatus.err = false := rfl
@[simp] theorem Fce.completeStatus_errAny (f : Fce) : f.completeStatus.errAny = f.errAny := rfl
@[simp] theorem Fce.completeStatus_errCode (f : Fce) : f.completeStatus.errCode = 0x0#4 := rfl
@[simp] theorem Fce.completeStatus_keyValid (f : Fce) :
    f.completeStatus.keyValid = f.keyValid := rfl
@[simp] theorem Fce.completeStatus_overrun (f : Fce) : f.completeStatus.overrun = f.overrun := rfl
@[simp] theorem Fce.completeStatus_doneIe (f : Fce) : f.completeStatus.doneIe = f.doneIe := rfl
@[simp] theorem Fce.completeStatus_din (f : Fce) : f.completeStatus.din = f.din := rfl
@[simp] theorem Fce.completeStatus_kin (f : Fce) : f.completeStatus.kin = f.kin := rfl
@[simp] theorem Fce.completeStatus_dout (f : Fce) : f.completeStatus.dout = f.dout := rfl
@[simp] theorem Fce.completeStatus_key (f : Fce) : f.completeStatus.key = f.key := rfl
@[simp] theorem Fce.completeStatus_rk (f : Fce) : f.completeStatus.rk = f.rk := rfl
@[simp] theorem Fce.completeStatus_pend (f : Fce) : f.completeStatus.pend = f.pend := rfl

@[simp] theorem Fce.raiseStatus_lastCmd (e : ErrorKind) (f : Fce) :
    (f.raiseStatus e).lastCmd = f.lastCmd := rfl
@[simp] theorem Fce.raiseStatus_busy (e : ErrorKind) (f : Fce) :
    (f.raiseStatus e).busy = false := rfl
@[simp] theorem Fce.raiseStatus_done (e : ErrorKind) (f : Fce) :
    (f.raiseStatus e).done = true := rfl
@[simp] theorem Fce.raiseStatus_err (e : ErrorKind) (f : Fce) : (f.raiseStatus e).err = true := rfl
@[simp] theorem Fce.raiseStatus_errAny (e : ErrorKind) (f : Fce) :
    (f.raiseStatus e).errAny = true := rfl
@[simp] theorem Fce.raiseStatus_errCode (e : ErrorKind) (f : Fce) :
    (f.raiseStatus e).errCode = e.code := rfl
@[simp] theorem Fce.raiseStatus_keyValid (e : ErrorKind) (f : Fce) :
    (f.raiseStatus e).keyValid = f.keyValid := rfl
@[simp] theorem Fce.raiseStatus_overrun (e : ErrorKind) (f : Fce) :
    (f.raiseStatus e).overrun = f.overrun := rfl
@[simp] theorem Fce.raiseStatus_doneIe (e : ErrorKind) (f : Fce) :
    (f.raiseStatus e).doneIe = f.doneIe := rfl
@[simp] theorem Fce.raiseStatus_din (e : ErrorKind) (f : Fce) : (f.raiseStatus e).din = f.din := rfl
@[simp] theorem Fce.raiseStatus_kin (e : ErrorKind) (f : Fce) : (f.raiseStatus e).kin = f.kin := rfl
@[simp] theorem Fce.raiseStatus_dout (e : ErrorKind) (f : Fce) :
    (f.raiseStatus e).dout = f.dout := rfl
@[simp] theorem Fce.raiseStatus_key (e : ErrorKind) (f : Fce) : (f.raiseStatus e).key = f.key := rfl
@[simp] theorem Fce.raiseStatus_rk (e : ErrorKind) (f : Fce) : (f.raiseStatus e).rk = f.rk := rfl
@[simp] theorem Fce.raiseStatus_pend (e : ErrorKind) (f : Fce) :
    (f.raiseStatus e).pend = f.pend := rfl

@[simp] theorem Fce.setOverrun_lastCmd (f : Fce) : f.setOverrun.lastCmd = f.lastCmd := rfl
@[simp] theorem Fce.setOverrun_busy (f : Fce) : f.setOverrun.busy = f.busy := rfl
@[simp] theorem Fce.setOverrun_done (f : Fce) : f.setOverrun.done = f.done := rfl
@[simp] theorem Fce.setOverrun_err (f : Fce) : f.setOverrun.err = f.err := rfl
@[simp] theorem Fce.setOverrun_errAny (f : Fce) : f.setOverrun.errAny = f.errAny := rfl
@[simp] theorem Fce.setOverrun_errCode (f : Fce) : f.setOverrun.errCode = f.errCode := rfl
@[simp] theorem Fce.setOverrun_keyValid (f : Fce) : f.setOverrun.keyValid = f.keyValid := rfl
@[simp] theorem Fce.setOverrun_overrun (f : Fce) : f.setOverrun.overrun = true := rfl
@[simp] theorem Fce.setOverrun_doneIe (f : Fce) : f.setOverrun.doneIe = f.doneIe := rfl
@[simp] theorem Fce.setOverrun_din (f : Fce) : f.setOverrun.din = f.din := rfl
@[simp] theorem Fce.setOverrun_kin (f : Fce) : f.setOverrun.kin = f.kin := rfl
@[simp] theorem Fce.setOverrun_dout (f : Fce) : f.setOverrun.dout = f.dout := rfl
@[simp] theorem Fce.setOverrun_key (f : Fce) : f.setOverrun.key = f.key := rfl
@[simp] theorem Fce.setOverrun_rk (f : Fce) : f.setOverrun.rk = f.rk := rfl
@[simp] theorem Fce.setOverrun_pend (f : Fce) : f.setOverrun.pend = f.pend := rfl

@[simp] theorem Fce.clearStatus_lastCmd (v : Word) (f : Fce) :
    (f.clearStatus v).lastCmd = f.lastCmd := rfl
@[simp] theorem Fce.clearStatus_busy (v : Word) (f : Fce) : (f.clearStatus v).busy = f.busy := rfl
@[simp] theorem Fce.clearStatus_done (v : Word) (f : Fce) :
    (f.clearStatus v).done = (f.done && !v.getLsbD 1) := rfl
@[simp] theorem Fce.clearStatus_err (v : Word) (f : Fce) : (f.clearStatus v).err = f.err := rfl
@[simp] theorem Fce.clearStatus_errAny (v : Word) (f : Fce) :
    (f.clearStatus v).errAny = (f.errAny && !v.getLsbD 3) := rfl
@[simp] theorem Fce.clearStatus_errCode (v : Word) (f : Fce) :
    (f.clearStatus v).errCode = f.errCode := rfl
@[simp] theorem Fce.clearStatus_keyValid (v : Word) (f : Fce) :
    (f.clearStatus v).keyValid = f.keyValid := rfl
@[simp] theorem Fce.clearStatus_overrun (v : Word) (f : Fce) :
    (f.clearStatus v).overrun = (f.overrun && !v.getLsbD 9) := rfl
@[simp] theorem Fce.clearStatus_doneIe (v : Word) (f : Fce) :
    (f.clearStatus v).doneIe = f.doneIe := rfl
@[simp] theorem Fce.clearStatus_din (v : Word) (f : Fce) : (f.clearStatus v).din = f.din := rfl
@[simp] theorem Fce.clearStatus_kin (v : Word) (f : Fce) : (f.clearStatus v).kin = f.kin := rfl
@[simp] theorem Fce.clearStatus_dout (v : Word) (f : Fce) : (f.clearStatus v).dout = f.dout := rfl
@[simp] theorem Fce.clearStatus_key (v : Word) (f : Fce) : (f.clearStatus v).key = f.key := rfl
@[simp] theorem Fce.clearStatus_rk (v : Word) (f : Fce) : (f.clearStatus v).rk = f.rk := rfl
@[simp] theorem Fce.clearStatus_pend (v : Word) (f : Fce) : (f.clearStatus v).pend = f.pend := rfl

@[simp] theorem Fce.accept_lastCmd (v : Word) (f : Fce) : (f.accept v).lastCmd = v := rfl
@[simp] theorem Fce.accept_busy (v : Word) (f : Fce) : (f.accept v).busy = true := rfl
@[simp] theorem Fce.accept_done (v : Word) (f : Fce) : (f.accept v).done = false := rfl
@[simp] theorem Fce.accept_err (v : Word) (f : Fce) : (f.accept v).err = false := rfl
@[simp] theorem Fce.accept_errAny (v : Word) (f : Fce) : (f.accept v).errAny = f.errAny := rfl
@[simp] theorem Fce.accept_errCode (v : Word) (f : Fce) : (f.accept v).errCode = 0x0#4 := rfl
@[simp] theorem Fce.accept_keyValid (v : Word) (f : Fce) : (f.accept v).keyValid = f.keyValid := rfl
@[simp] theorem Fce.accept_overrun (v : Word) (f : Fce) : (f.accept v).overrun = f.overrun := rfl
@[simp] theorem Fce.accept_doneIe (v : Word) (f : Fce) : (f.accept v).doneIe = f.doneIe := rfl
@[simp] theorem Fce.accept_din (v : Word) (f : Fce) : (f.accept v).din = f.din := rfl
@[simp] theorem Fce.accept_kin (v : Word) (f : Fce) : (f.accept v).kin = f.kin := rfl
@[simp] theorem Fce.accept_dout (v : Word) (f : Fce) : (f.accept v).dout = f.dout := rfl
@[simp] theorem Fce.accept_key (v : Word) (f : Fce) : (f.accept v).key = f.key := rfl
@[simp] theorem Fce.accept_rk (v : Word) (f : Fce) : (f.accept v).rk = f.rk := rfl
@[simp] theorem Fce.accept_pend (v : Word) (f : Fce) : (f.accept v).pend = ⟨v, f.din, f.kin⟩ := rfl

@[simp] theorem Fce.loadCipherState_lastCmd (kin : Block) (f : Fce) :
    (f.loadCipherState kin).lastCmd = f.lastCmd := rfl
@[simp] theorem Fce.loadCipherState_busy (kin : Block) (f : Fce) :
    (f.loadCipherState kin).busy = f.busy := rfl
@[simp] theorem Fce.loadCipherState_done (kin : Block) (f : Fce) :
    (f.loadCipherState kin).done = f.done := rfl
@[simp] theorem Fce.loadCipherState_err (kin : Block) (f : Fce) :
    (f.loadCipherState kin).err = f.err := rfl
@[simp] theorem Fce.loadCipherState_errAny (kin : Block) (f : Fce) :
    (f.loadCipherState kin).errAny = f.errAny := rfl
@[simp] theorem Fce.loadCipherState_errCode (kin : Block) (f : Fce) :
    (f.loadCipherState kin).errCode = f.errCode := rfl
@[simp] theorem Fce.loadCipherState_keyValid (kin : Block) (f : Fce) :
    (f.loadCipherState kin).keyValid = true := rfl
@[simp] theorem Fce.loadCipherState_overrun (kin : Block) (f : Fce) :
    (f.loadCipherState kin).overrun = f.overrun := rfl
@[simp] theorem Fce.loadCipherState_doneIe (kin : Block) (f : Fce) :
    (f.loadCipherState kin).doneIe = f.doneIe := rfl
@[simp] theorem Fce.loadCipherState_din (kin : Block) (f : Fce) :
    (f.loadCipherState kin).din = f.din := rfl
@[simp] theorem Fce.loadCipherState_kin (kin : Block) (f : Fce) :
    (f.loadCipherState kin).kin = f.kin := rfl
@[simp] theorem Fce.loadCipherState_dout (kin : Block) (f : Fce) :
    (f.loadCipherState kin).dout = f.dout := rfl
@[simp] theorem Fce.loadCipherState_key (kin : Block) (f : Fce) :
    (f.loadCipherState kin).key = kin := rfl
@[simp] theorem Fce.loadCipherState_rk (kin : Block) (f : Fce) :
    (f.loadCipherState kin).rk = keySchedule kin := rfl
@[simp] theorem Fce.loadCipherState_pend (kin : Block) (f : Fce) :
    (f.loadCipherState kin).pend = f.pend := rfl

@[simp] theorem Fce.clearCipherState_lastCmd (f : Fce) :
    f.clearCipherState.lastCmd = f.lastCmd := rfl
@[simp] theorem Fce.clearCipherState_busy (f : Fce) : f.clearCipherState.busy = f.busy := rfl
@[simp] theorem Fce.clearCipherState_done (f : Fce) : f.clearCipherState.done = f.done := rfl
@[simp] theorem Fce.clearCipherState_err (f : Fce) : f.clearCipherState.err = f.err := rfl
@[simp] theorem Fce.clearCipherState_errAny (f : Fce) : f.clearCipherState.errAny = f.errAny := rfl
@[simp] theorem Fce.clearCipherState_errCode (f : Fce) :
    f.clearCipherState.errCode = f.errCode := rfl
@[simp] theorem Fce.clearCipherState_keyValid (f : Fce) : f.clearCipherState.keyValid = false := rfl
@[simp] theorem Fce.clearCipherState_overrun (f : Fce) :
    f.clearCipherState.overrun = f.overrun := rfl
@[simp] theorem Fce.clearCipherState_doneIe (f : Fce) : f.clearCipherState.doneIe = f.doneIe := rfl
@[simp] theorem Fce.clearCipherState_din (f : Fce) : f.clearCipherState.din = f.din := rfl
@[simp] theorem Fce.clearCipherState_kin (f : Fce) : f.clearCipherState.kin = f.kin := rfl
@[simp] theorem Fce.clearCipherState_dout (f : Fce) : f.clearCipherState.dout = f.dout := rfl
@[simp] theorem Fce.clearCipherState_key (f : Fce) : f.clearCipherState.key = 0x0000#16 := rfl
@[simp] theorem Fce.clearCipherState_rk (f : Fce) : f.clearCipherState.rk = RoundKeys.zero := rfl
@[simp] theorem Fce.clearCipherState_pend (f : Fce) : f.clearCipherState.pend = f.pend := rfl

@[simp] theorem Fce.setDout_lastCmd (v : Block) (f : Fce) : (f.setDout v).lastCmd = f.lastCmd := rfl
@[simp] theorem Fce.setDout_busy (v : Block) (f : Fce) : (f.setDout v).busy = f.busy := rfl
@[simp] theorem Fce.setDout_done (v : Block) (f : Fce) : (f.setDout v).done = f.done := rfl
@[simp] theorem Fce.setDout_err (v : Block) (f : Fce) : (f.setDout v).err = f.err := rfl
@[simp] theorem Fce.setDout_errAny (v : Block) (f : Fce) : (f.setDout v).errAny = f.errAny := rfl
@[simp] theorem Fce.setDout_errCode (v : Block) (f : Fce) : (f.setDout v).errCode = f.errCode := rfl
@[simp] theorem Fce.setDout_keyValid (v : Block) (f : Fce) :
    (f.setDout v).keyValid = f.keyValid := rfl
@[simp] theorem Fce.setDout_overrun (v : Block) (f : Fce) : (f.setDout v).overrun = f.overrun := rfl
@[simp] theorem Fce.setDout_doneIe (v : Block) (f : Fce) : (f.setDout v).doneIe = f.doneIe := rfl
@[simp] theorem Fce.setDout_din (v : Block) (f : Fce) : (f.setDout v).din = f.din := rfl
@[simp] theorem Fce.setDout_kin (v : Block) (f : Fce) : (f.setDout v).kin = f.kin := rfl
@[simp] theorem Fce.setDout_dout (v : Block) (f : Fce) : (f.setDout v).dout = v := rfl
@[simp] theorem Fce.setDout_key (v : Block) (f : Fce) : (f.setDout v).key = f.key := rfl
@[simp] theorem Fce.setDout_rk (v : Block) (f : Fce) : (f.setDout v).rk = f.rk := rfl
@[simp] theorem Fce.setDout_pend (v : Block) (f : Fce) : (f.setDout v).pend = f.pend := rfl

@[simp] theorem State.serviceAccess_inReset (a : Access) (s : State) :
    (s.serviceAccess a).inReset = s.inReset := by
  unfold State.serviceAccess; split <;> rfl
@[simp] theorem State.serviceAccess_agenda (a : Access) (s : State) :
    (s.serviceAccess a).agenda = s.agenda := by
  unfold State.serviceAccess; split <;> rfl
@[simp] theorem State.resetLine_inReset (b : Bool) (s : State) : (s.resetLine b).inReset = b := by
  cases b <;> rfl
@[simp] theorem State.resetLine_agenda (b : Bool) (s : State) :
    (s.resetLine b).agenda = s.agenda := by
  cases b <;> rfl
@[simp] theorem State.resetLine_answers (b : Bool) (s : State) :
    (s.resetLine b).answers = s.answers := by
  cases b <;> rfl

end Sys2Proof.Machine
end

