-- ==== Sys2Proof/Laws/Ops.lean ====
section
/-! SUPPORT. One lemma for each shared operation that says everything it can do, and one for the
step. -/

namespace Sys2Proof.Machine

/-! ### The ends of a command -/

@[simp] theorem State.complete_eq_next (f : Fce) (s t : State) :
    s.complete f = .next t ↔ t = { s with fce := f.completeStatus } := by
  unfold State.complete
  constructor
  · intro h; cases h; rfl
  · rintro rfl; rfl

@[simp] theorem State.raiseError_eq_next (e : ErrorKind) (s t : State) :
    s.raiseError e = .next t ↔ t = { s with fce := s.fce.raiseStatus e } := by
  unfold State.raiseError
  constructor
  · intro h; cases h; rfl
  · rintro rfl; rfl

/-! ### The register window -/

theorem Fce.memRead_unsupported (f : Fce) {off : Offset} {n : Nat} (h : supported off n = false) :
    f.memRead off n = .error .busError := by
  simp [Fce.memRead, h]

theorem Fce.memWrite_unsupported (f : Fce) {off : Offset} {n : Nat} (v : Word)
    (h : supported off n = false) : f.memWrite off n v = .error .busError := by
  simp [Fce.memWrite, h]

theorem Fce.memRead_reg (f : Fce) {off : Offset} {n : Nat} {r : Reg} (h : supported off n = true)
    (hr : regAt off = some r) : f.memRead off n = .ok (f.readReg r) := by
  simp [Fce.memRead, h, hr]

theorem Fce.memRead_reserved (f : Fce) {off : Offset} {n : Nat} (h : supported off n = true)
    (hr : regAt off = none) : f.memRead off n = .ok 0x00000000#32 := by
  simp [Fce.memRead, h, hr]

theorem Fce.memWrite_reg (f : Fce) {off : Offset} {n : Nat} {r : Reg} (v : Word)
    (h : supported off n = true) (hr : regAt off = some r) :
    f.memWrite off n v = .ok (f.writeReg v r) := by
  simp [Fce.memWrite, h, hr]

theorem Fce.memWrite_reserved (f : Fce) {off : Offset} {n : Nat} (v : Word)
    (h : supported off n = true) (hr : regAt off = none) : f.memWrite off n v = .ok f := by
  simp [Fce.memWrite, h, hr]

theorem regAt_offset (r : Reg) : regAt r.offset = some r := by cases r <;> rfl

/-- A register stands at its own offset only. -/
theorem offset_of_regAt {off : Offset} {r : Reg} (h : regAt off = some r) : off = r.offset := by
  revert off
  cases r <;> decide

theorem supported_offset (r : Reg) : supported r.offset 4 = true := by cases r <;> rfl

/-- A command word written while busy is dropped. -/
theorem Fce.issueCommand_busy {f : Fce} (v : Word) (h : f.busy = true) :
    f.issueCommand v = f.setOverrun := by
  simp [Fce.issueCommand, h]

/-- A command word written while idle is accepted. -/
theorem Fce.issueCommand_idle {f : Fce} (v : Word) (h : f.busy = false) :
    f.issueCommand v = f.accept v := by
  simp [Fce.issueCommand, h]

/-- Everything a write to a register can do. -/
theorem Fce.writeReg_cases (v : Word) (f : Fce) (r : Reg) :
    f.writeReg v r = f ∨
    (r = .cmd ∧ f.busy = true ∧ f.writeReg v r = f.setOverrun) ∨
    (r = .cmd ∧ f.busy = false ∧ f.writeReg v r = f.accept v) ∨
    (r = .status ∧ f.writeReg v r = f.clearStatus v) ∨
    (r = .irqEn ∧ f.writeReg v r = { f with doneIe := v.getLsbD 0 }) ∨
    (r = .din ∧ f.writeReg v r = { f with din := blockOfWord v }) ∨
    (r = .kin ∧ f.writeReg v r = { f with kin := blockOfWord v }) := by
  cases r <;> simp [Fce.writeReg]
  cases h : f.busy
  · simp [Fce.issueCommand_idle v h]
  · simp [Fce.issueCommand_busy v h]

/-- A read never changes the registers. -/
theorem Fce.access_read (f : Fce) (off : Offset) (n : Nat) : (f.access (.read off n)).1 = f := by
  simp only [Fce.access]; split <;> rfl

/-- Everything an access can do to the registers: nothing, or a supported write to one of them. -/
theorem Fce.access_cases (f : Fce) (a : Access) :
    (f.access a).1 = f ∨
    ∃ off n v r, a = .write off n v ∧ supported off n = true ∧ regAt off = some r ∧
      (f.access a).1 = f.writeReg v r := by
  cases a with
  | read off n => exact .inl (f.access_read off n)
  | write off n v =>
    cases hs : supported off n with
    | false => exact .inl (by simp [Fce.access, f.memWrite_unsupported v hs])
    | true =>
      cases hr : regAt off with
      | none => exact .inl (by simp [Fce.access, f.memWrite_reserved v hs hr])
      | some r =>
        exact .inr ⟨off, n, v, r, rfl, hs, hr, by simp [Fce.access, f.memWrite_reg v hs hr]⟩

/-- The service of an access, outside reset and in it. -/
theorem State.serviceAccess_cases (a : Access) (s : State) :
    (s.inReset = false ∧ s.serviceAccess a =
      { s with fce := (s.fce.access a).1, answers := (s.fce.access a).2 :: s.answers }) ∨
    (s.inReset = true ∧ s.serviceAccess a =
      { s with answers := .fault .accessDuringReset :: s.answers }) := by
  cases h : s.inReset <;> simp [State.serviceAccess, h]

/-! ### The commands -/

/-- What ENCRYPT and DECRYPT do, with a key and without. -/
theorem cipherCommand_next (o : KeyOrder) (s t : State) :
    cipherCommand o s = .next t ↔
      (s.fce.keyValid = true ∧ t = { s with
        fce := (s.fce.setDout (cipher o s.fce.rk s.fce.opDin)).completeStatus }) ∨
      (s.fce.keyValid = false ∧ t = { s with fce := s.fce.raiseStatus .noKeyLoaded }) := by
  unfold cipherCommand
  cases h : s.fce.keyValid <;> simp

/-- What SBOX does, with an index in range and out of it. -/
theorem execSbox_next (s t : State) :
    execSbox s = .next t ↔
      (indexHigh s.fce.opDin = 0 ∧ t = { s with fce :=
        (s.fce.setDout ((sboxLookup (indexLow s.fce.opDin)).setWidth 16)).completeStatus }) ∨
      (indexHigh s.fce.opDin ≠ 0 ∧ t = { s with fce := s.fce.raiseStatus .invalidInput }) := by
  unfold execSbox
  split <;> rename_i h <;> simp_all

/-- Everything a completion can do: it ends without error, with the registers its command wrote, or
it raises one of three errors. -/
theorem exec_cases {i : Instr} {s t : State} (h : exec i s = .next t) :
    (i = .nop ∧ t = { s with fce := s.fce.completeStatus }) ∨
    (i = .loadKey ∧ t = { s with fce := (s.fce.loadCipherState s.fce.opKin).completeStatus }) ∨
    (i = .deleteKey ∧ t = { s with fce := s.fce.clearCipherState.completeStatus }) ∨
    (i = .encrypt ∧ s.fce.keyValid = true ∧ t = { s with
      fce := (s.fce.setDout (enc s.fce.rk s.fce.opDin)).completeStatus }) ∨
    (i = .decrypt ∧ s.fce.keyValid = true ∧ t = { s with
      fce := (s.fce.setDout (dec s.fce.rk s.fce.opDin)).completeStatus }) ∨
    (i = .compress ∧ t = { s with fce := ((s.fce.loadCipherState s.fce.opKin).setDout
      (enc (keySchedule s.fce.opKin) s.fce.opDin)).completeStatus }) ∨
    (i = .sbox ∧ indexHigh s.fce.opDin = 0 ∧ t = { s with fce :=
      (s.fce.setDout ((sboxLookup (indexLow s.fce.opDin)).setWidth 16)).completeStatus }) ∨
    ((i = .encrypt ∨ i = .decrypt) ∧ s.fce.keyValid = false ∧
      t = { s with fce := s.fce.raiseStatus .noKeyLoaded }) ∨
    (i = .sbox ∧ indexHigh s.fce.opDin ≠ 0 ∧
      t = { s with fce := s.fce.raiseStatus .invalidInput }) ∨
    ((∃ c, i = .illegal c) ∧ t = { s with fce := s.fce.raiseStatus .invalidCommand }) := by
  cases i <;>
    simp [exec, execNop, execLoadKey, execDeleteKey, execEncrypt, execDecrypt, execCompress,
      execIllegal, cipherCommand_next, execSbox_next] at h ⊢ <;>
    exact h

/-! ### The step -/

/-- The engine's turn: a completion where it is enabled, and nothing where it is not. -/
theorem engineTurn_cases {s t : State} (h : engineTurn s = .next t) :
    (s.engineEnabled = true ∧ exec s.fce.pendingInstr s = .next t) ∨
    (s.engineEnabled = false ∧ t = s) := by
  unfold engineTurn at h
  cases he : s.engineEnabled
  · simp [he] at h; exact .inr ⟨rfl, h.symm⟩
  · simp [he] at h; exact .inl ⟨rfl, h⟩

/-- Everything a step can do. -/
theorem step_cases {s t : State} (h : step s = .next t) :
    (s.agenda = [] ∧ engineTurn s = .next t) ∨
    (∃ rest, s.agenda = .engine :: rest ∧ engineTurn { s with agenda := rest } = .next t) ∨
    (∃ a rest, s.agenda = .access a :: rest ∧ t = { s with agenda := rest }.serviceAccess a) ∨
    (∃ b rest, s.agenda = .reset b :: rest ∧ t = { s with agenda := rest }.resetLine b) := by
  unfold step at h
  split at h
  · exact .inl ⟨‹_›, h⟩
  · exact .inr (.inl ⟨_, ‹_›, h⟩)
  · exact .inr (.inr (.inl ⟨_, _, ‹_›, by cases h; rfl⟩))
  · exact .inr (.inr (.inr ⟨_, _, ‹_›, by cases h; rfl⟩))

end Sys2Proof.Machine
end

