-- ==== Sys2Proof/Laws/PerInstr.lean ====
section
/-! SUPPORT. A fact about every command as syntax, one lemma for each constructor: a well-formed
command has a legal word exactly when it is one of the seven named ones (30_encoding.md R91, R93). -/

namespace Sys2Proof.Laws.EncodingLegality

/-- The word of a well-formed command is legal exactly when the command is not an illegal word. -/
def Statement (i : Instr) : Prop :=
  i.wellFormed = true → (legalWord (encode i) = true ↔ ∀ c, i ≠ .illegal c)

theorem nop : Statement .nop := by simp [Statement, encode, legalWord]
theorem loadKey : Statement .loadKey := by simp [Statement, encode, legalWord]
theorem deleteKey : Statement .deleteKey := by simp [Statement, encode, legalWord]
theorem encrypt : Statement .encrypt := by simp [Statement, encode, legalWord]
theorem decrypt : Statement .decrypt := by simp [Statement, encode, legalWord]
theorem compress : Statement .compress := by simp [Statement, encode, legalWord]
theorem sbox : Statement .sbox := by simp [Statement, encode, legalWord]
theorem illegal (c : Word) : Statement (.illegal c) := by
  intro h
  simp only [Instr.wellFormed, Bool.not_eq_true'] at h
  simp [encode, h]

end Sys2Proof.Laws.EncodingLegality
end

