-- ==== Sys2Proof/Laws/Platform.lean ====
section
/-! SUPPORT. Where the windows of a platform lie, and what an address is in a window. -/

namespace Sys2Proof

/-- No two instances have the same window (60_exceptions.md R225). -/
theorem Config.windowIndex_injective : Function.Injective Config.windowIndex :=
  Config.windows.injective

namespace Machine

/-- Everything `windowOffset` can answer: an address of the window, at its distance from BASE_ADDR
(20_memory.md R61). -/
theorem windowOffset_eq_some {k addr : Nat} {off : Offset} :
    windowOffset k addr = some off ↔ addr = Config.baseAddr k + off.toNat := by
  unfold windowOffset
  constructor
  · intro h
    split at h
    · simp only [Option.some.injEq] at h
      subst h
      simp only [BitVec.toNat_ofNat]
      omega
    · cases h
  · rintro rfl
    have := off.isLt
    rw [if_pos (by omega)]
    simp

end Machine

end Sys2Proof
end

