-- ==== Sys2Proof/Laws/Run.lean ====
section
/-! SUPPORT. A command from its write to its completion. -/

namespace Sys2Proof.Machine

/-- The state in which the command word `c`, just written to an idle FCE, is about to complete. -/
abbrev State.issued (s : State) (c : Word) : State :=
  { s with fce := s.fce.accept c, agenda := [], answers := .ack :: s.answers }

/-- The write of a command word to an idle FCE, and the engine's turn after it, are the completion of
the word's command in the accepted state. -/
theorem run_of_issues {s t : State} {c : Word} (h : s.Issues c)
    (he : exec (decodeWord c) (s.issued c) = .next t) : Sys2Proof.core.run 2 s = .next t := by
  obtain ⟨hb, hr, ha⟩ := h
  have h1 : step s = .next { s.issued c with agenda := [.engine] } := by
    simp [step, ha, State.serviceAccess, hr, Fce.access, Fce.memWrite, supported, regAt, Fce.writeReg,
      Fce.issueCommand_idle c hb]
  have h2 : step { s.issued c with agenda := [.engine] } = .next t := by
    simpa [step, engineTurn, State.engineEnabled, State.issued, hr, Fce.pendingInstr] using he
  simp [Host.Core.run, Sys2Proof.core, h1, h2]

end Sys2Proof.Machine
end

