-- ==== Sys2Proof/Tests/Slice0.lean ====
section
/-! SUPPORT. Tests. Expected results come from the spec: the encodings of 30_encoding.md R90 and R91,
the tables and programs of 95_test_vectors.md, and the examples of the commands' rules. The theorems
`test_meets_…` show, for each statement with hypotheses, operands and states that meet them. -/

namespace Sys2Proof.Tests

open Sys2Proof.Machine

/-! ### Well-formedness and decoding -/

/-- A legal word is no illegal command. -/
theorem test_wf_refuses_legal_word : (Instr.illegal 0x00000006#32).wellFormed = false := by decide

/-- The opcode 0x7 is reserved, and so is any word with a bit of [31:4] set (R93). -/
theorem test_wf_accepts_illegal_words :
    (Instr.illegal 0x00000007#32).wellFormed = true ∧
    (Instr.illegal 0x10000003#32).wellFormed = true ∧
    (Instr.illegal 0x00000010#32).wellFormed = true := by decide

/-- A word written out bit by bit: RSVD, then OP (R90). -/
abbrev wordOf (rsvd : BitVec 28) (op : BitVec 4) : Word := rsvd ++ op

theorem test_decode_nop : decodeWord (wordOf 0#28 0b0000#4) = .nop := by decide
theorem test_decode_loadKey : decodeWord (wordOf 0#28 0b0001#4) = .loadKey := by decide
theorem test_decode_deleteKey : decodeWord (wordOf 0#28 0b0010#4) = .deleteKey := by decide
theorem test_decode_encrypt : decodeWord (wordOf 0#28 0b0011#4) = .encrypt := by decide
theorem test_decode_decrypt : decodeWord (wordOf 0#28 0b0100#4) = .decrypt := by decide
theorem test_decode_compress : decodeWord (wordOf 0#28 0b0101#4) = .compress := by decide
theorem test_decode_sbox : decodeWord (wordOf 0#28 0b0110#4) = .sbox := by decide
theorem test_decode_reserved_opcode :
    decodeWord (wordOf 0#28 0b1111#4) = .illegal 0x0000000F#32 := by decide
theorem test_decode_reserved_bit :
    decodeWord (wordOf 0x0000001#28 0b0011#4) = .illegal 0x00000013#32 := by decide

/-- Lane 0 carries bits [7:0] (R63). -/
theorem test_decode_lanes :
    decodeLanes [0x03#8, 0x00#8, 0x00#8, 0x00#8, 0xAA#8] = .ok (.encrypt, [0xAA#8]) := by decide
theorem test_decode_lanes_high_byte :
    decodeLanes [0x03#8, 0x00#8, 0x00#8, 0x10#8] = .ok (.illegal 0x10000003#32, []) := by decide
theorem test_decode_rejects_three_lanes :
    decodeLanes [0x03#8, 0x00#8, 0x00#8] = .error .notAWholeWord := by decide

/-! ### The cipher's functions (95_test_vectors.md sections 2.1, 2.3, 2.6) -/

theorem test_rotl8 : rotl8 0x80#8 2 = 0x02#8 ∧ rotl8 0x81#8 3 = 0x0C#8 ∧ rotl8 0x96#8 8 = 0x96#8 := by
  decide
theorem test_sub8 : sub8 0x89#8 = 0xC5#8 ∧ sub8 0x2C#8 = 0xBF#8 := by decide
theorem test_round_function :
    roundFunction 0x10#8 0x44#8 = 0xA7#8 ∧ roundFunction 0x94#8 0x26#8 = 0xEC#8 := by decide
theorem test_key_schedule_1234 : (keySchedule 0x1234#16).toList =
    [0x34#8, 0x12#8, 0x16#8, 0xF2#8, 0x55#8, 0xF4#8, 0x0D#8, 0xF6#8] := by decide
theorem test_key_schedule_0100 : (keySchedule 0x0100#16).toList =
    [0x00#8, 0x01#8, 0x08#8, 0x60#8, 0x02#8, 0x1C#8, 0xA0#8, 0x86#8] := by decide
theorem test_enc_dec_A5A5 :
    enc (keySchedule 0xA5A5#16) 0xABCD#16 = 0x9430#16 ∧
    dec (keySchedule 0xA5A5#16) 0xABCD#16 = 0xB929#16 := by decide
theorem test_enc_dec_B0B1 :
    enc (keySchedule 0xB0B1#16) 0x0000#16 = 0x4DDC#16 ∧
    dec (keySchedule 0xB0B1#16) 0x0000#16 = 0xBBE9#16 := by decide

/-! ### One completion on a small state -/

/-- The reset registers with key 0xB0B1 loaded. -/
def keyed : Fce :=
  { Fce.reset with key := 0xB0B1#16, rk := keySchedule 0xB0B1#16, keyValid := true }

/-- A running command with its operands, on the registers `f`. -/
def running (f : Fce) (c : Word) (din kin : Block) (agenda : List Event := []) : State :=
  { State.reset with
    fce := { f with busy := true, lastCmd := c, pend := ⟨c, din, kin⟩ }, agenda := agenda }

/-- The registers after an outcome. -/
def registers : Host.Outcome State Fault Refusal → Option Fce
  | .next s => some s.fce
  | .fault _ => none
  | .refused _ => none

theorem test_nop_status :
    (registers (exec .nop (running Fce.reset 0 0 0))).map Fce.statusWord = some 0x00000002#32 := by
  decide
theorem test_nop_keeps_dout :
    (registers (exec .nop (running { keyed with dout := 0xB894#16 } 0 0 0))).map Fce.dout =
      some 0xB894#16 := by decide
theorem test_load_key :
    (registers (exec .loadKey (running Fce.reset 1 0 0xA5A5#16))).map
      (fun f => (f.key, f.rk03Word, f.rk47Word)) =
      some (0xA5A5#16, 0x7899A5A5#32, 0xC35A88F0#32) := by decide
theorem test_load_key_status :
    (registers (exec .loadKey (running Fce.reset 1 0 0))).map Fce.statusWord =
      some 0x00000102#32 := by decide
theorem test_delete_key :
    (registers (exec .deleteKey (running keyed 2 0 0))).map
      (fun f => (f.key, f.rk03Word, f.rk47Word, f.statusWord)) = some (0, 0, 0, 0x00000002#32) := by
  decide
theorem test_encrypt :
    (registers (exec .encrypt (running keyed 3 0x6162#16 0))).map Fce.dout = some 0xB894#16 := by
  decide
theorem test_encrypt_without_key :
    (registers (exec .encrypt (running Fce.reset 3 0x6162#16 0))).map
      (fun f => (f.statusWord, f.dout)) = some (0x0000001E#32, 0) := by decide
theorem test_decrypt :
    (registers (exec .decrypt (running keyed 4 0x6162#16 0))).map Fce.dout = some 0x5D6D#16 := by
  decide
theorem test_decrypt_without_key :
    (registers (exec .decrypt (running Fce.reset 4 0x6162#16 0))).map Fce.statusWord =
      some 0x0000001E#32 := by decide
theorem test_compress :
    (registers (exec .compress (running keyed 5 0x6364#16 0x2A74#16))).map
      (fun f => (f.dout, f.key, f.statusWord)) = some (0x12AB#16, 0x2A74#16, 0x00000102#32) := by
  decide
theorem test_compress_of_zero :
    (registers (exec .compress (running keyed 5 0 0))).map Fce.dout = some 0 := by decide
theorem test_sbox :
    (registers (exec .sbox (running Fce.reset 6 0x000F#16 0))).map Fce.dout = some 0x000A#16 := by
  decide
theorem test_sbox_index_out_of_range :
    (registers (exec .sbox (running { Fce.reset with dout := 0x1111#16 } 6 0x00F6#16 0))).map
      (fun f => (f.errCode, f.dout)) = some (0x3#4, 0x1111#16) := by decide
theorem test_illegal :
    (registers (exec (.illegal 0x00000007#32) (running Fce.reset 7 0 0))).map Fce.statusWord =
      some 0x0000004E#32 := by decide

/-! ### The window (95_test_vectors.md section 2.8) -/

theorem test_write_din_ignores_high_half :
    (Fce.reset.access (.write 0x10#6 4 0xFFFF1234#32)).1.readReg .din = 0x00001234#32 := by decide
theorem test_w1c_keeps_err_and_code :
    ((Fce.reset.raiseStatus .invalidCommand).clearStatus 0x0000020A#32).statusWord =
      0x00000044#32 := by decide
theorem test_reserved_offset_reads_zero : keyed.memRead 0x2C#6 4 = .ok 0 := by decide
theorem test_two_byte_write_is_bus_error :
    Fce.reset.access (.write 0x10#6 2 0x1234#32) = (Fce.reset, .fault .busError) := by decide
theorem test_overrun_status :
    ((running keyed 5 0 0).fce.issueCommand 0).statusWord = 0x00000301#32 := by decide
theorem test_fetch_word_runs :
    (registers (step (State.reset.withFetchWord 32 0x00000005))).map Fce.statusWord =
      some 0x00000102#32 := by decide

/-! ### States that meet the hypotheses of the statements -/

theorem test_meets_decode_of_encode :
    (Instr.illegal 0xFFFFFFFF#32).wellFormed = true ∧ Instr.sbox.wellFormed = true := by decide

theorem test_meets_rotate : (0 ≤ 8 ∧ 8 ≤ 8) ∧ ∃ i, i < 8 ∧ i = 7 := by decide

theorem test_meets_recurrence_bounds : (2 ≤ 2 ∧ 2 ≤ 7) ∧ (2 ≤ 7 ∧ 7 ≤ 7) := by decide

theorem test_meets_eight_rounds : keyed.rk.toList[0]? = some 0xB1#8 ∧
    keyed.rk.toList[7]? = some 0x26#8 := by decide

theorem test_meets_mirrored_round_keys :
    (keySchedule 0xFFFF#16).reversed = keySchedule 0xFFFF#16 ∧
    (keySchedule 0x0000#16).reversed = keySchedule 0x0000#16 := by decide

theorem test_meets_worked_key : (running Fce.reset 1 0 0xB0B1#16).fce.pend.pkin = 0xB0B1#16 := rfl

/-- The example states: an idle FCE whose host is about to write the command word `c`. -/
def aboutToIssue (f : Fce) (c : Word) (din kin : Block) : State :=
  { State.reset with
    fce := { f with din := din, kin := kin }, agenda := [.access (.write 0x04#6 4 c), .engine] }

theorem test_meets_load_key_again :
    let s := running keyed 1 0 0xB0B1#16
    s.fce.CipherInv ∧ s.fce.keyValid = true ∧ s.fce.key = s.fce.pend.pkin ∧
      ∃ t, exec .loadKey s = .next t := ⟨by decide, rfl, rfl, _, rfl⟩

theorem test_meets_load_key_example :
    let s := aboutToIssue Fce.reset 1 0 0xB0B1#16
    s.Issues 0x00000001#32 ∧ s.fce.kin = 0xB0B1#16 ∧ s.fce.errAny = false ∧
      s.fce.overrun = false := by decide

theorem test_meets_delete_key_without_key :
    let s := running Fce.reset 2 0 0
    s.fce.CipherInv ∧ s.fce.keyValid = false ∧ ∃ t, exec .deleteKey s = .next t :=
  ⟨by decide, rfl, _, rfl⟩

theorem test_meets_after_delete :
    ∃ t, exec .deleteKey (running keyed 2 0 0) = .next t ∧
      (running Fce.reset 3 0 0).fce.keyValid = t.fce.keyValid := ⟨_, rfl, rfl⟩

theorem test_meets_delete_key_example :
    let s := aboutToIssue keyed 2 0 0xB0B1#16
    s.Issues 0x00000002#32 ∧ s.fce.errAny = false ∧ s.fce.overrun = false := by decide

theorem test_meets_encrypt :
    (running keyed 3 0xFFFF#16 0).fce.keyValid = true ∧
    (running Fce.reset 3 0xFFFF#16 0).fce.keyValid = false := by decide

theorem test_meets_encrypt_example :
    let s := aboutToIssue keyed 3 0x6162#16 0
    s.Issues 0x00000003#32 ∧ s.fce.keyValid = true ∧ s.fce.rk = keySchedule 0xB0B1#16 ∧
      s.fce.din = 0x6162#16 := by decide

theorem test_meets_decrypt :
    (running keyed 4 0xFFFF#16 0).fce.keyValid = true ∧
    (running Fce.reset 4 0xFFFF#16 0).fce.keyValid = false := by decide

theorem test_meets_decrypt_of_encrypt :
    let s := running keyed 3 0x6162#16 0
    let u := running keyed 4 0xB894#16 0
    s.fce.keyValid = true ∧ u.fce.keyValid = true ∧ u.fce.rk = s.fce.rk ∧
      ∃ t v, exec .encrypt s = .next t ∧ u.fce.pend.pdin = t.fce.dout ∧ exec .decrypt u = .next v :=
  ⟨rfl, rfl, rfl, _, _, rfl, by decide, rfl⟩

theorem test_meets_decrypt_example :
    let s := aboutToIssue keyed 4 0xB894#16 0
    s.Issues 0x00000004#32 ∧ s.fce.keyValid = true ∧ s.fce.rk = keySchedule 0xB0B1#16 ∧
      s.fce.din = 0xB894#16 := by decide

theorem test_meets_compress_as_load_then_encrypt :
    let s := running Fce.reset 5 0x6162#16 0xB0B1#16
    ∃ t u v, exec .loadKey s = .next t ∧
      exec .encrypt { t with fce := { t.fce with din := 0x6162#16 }.accept (encode .encrypt) } =
        .next u ∧
      exec .compress s = .next v :=
  ⟨_, _, _, rfl, rfl, rfl⟩

theorem test_meets_compress_example :
    let s := aboutToIssue Fce.reset 5 0x6162#16 0xB0B1#16
    s.Issues 0x00000005#32 ∧ s.fce.din = 0x6162#16 ∧ s.fce.kin = 0xB0B1#16 ∧
      s.fce.errAny = false ∧ s.fce.overrun = false := by decide

/-- The last index in range and the first out of it. -/
theorem test_meets_sbox :
    (running Fce.reset 6 0x000F#16 0).fce.pend.pdin.extractLsb' 4 12 = 0#12 ∧
    (running Fce.reset 6 0x0010#16 0).fce.pend.pdin.extractLsb' 4 12 ≠ 0#12 := by decide

theorem test_meets_sbox_corners :
    (∃ t, exec .sbox (running Fce.reset 6 0x0000#16 0) = .next t) ∧
    (∃ t, exec .sbox (running Fce.reset 6 0x000F#16 0) = .next t) ∧
    (∃ t, exec .sbox (running Fce.reset 6 0x0010#16 0) = .next t) ∧
    ∃ t, exec .sbox (running Fce.reset 6 0xFFFF#16 0) = .next t :=
  ⟨⟨_, rfl⟩, ⟨_, rfl⟩, ⟨_, rfl⟩, ⟨_, rfl⟩⟩

theorem test_meets_sbox_example :
    let s := aboutToIssue Fce.reset 6 0x0004#16 0
    s.Issues 0x00000006#32 ∧ s.fce.din = 0x0004#16 ∧ s.fce.keyValid = false ∧
      s.fce.errAny = false ∧ s.fce.overrun = false := by decide

theorem test_meets_illegal :
    (legalWord 0x00000007#32 = false ∧ Fce.reset.busy = false) ∧
    7 ≤ ((0x00000007#32 : Word).extractLsb' 0 4).toNat ∧
    ((0x00000010#32 : Word).extractLsb' 4 28 ≠ 0#28) ∧ decodeWord 0x00000000#32 = .nop := by decide

/-- Two running commands that agree on the operands a row names and differ elsewhere. -/
theorem test_meets_row_only :
    let s (c : Word) := running keyed c 0x0004#16 0x1234#16
    let s' (c : Word) := running { keyed with din := 0x7777#16 } c 0x0004#16 0x1234#16
    (∃ t t', exec .loadKey (s 1) = .next t ∧ exec .loadKey (s' 1) = .next t') ∧
    (∃ t t', exec .deleteKey (s 2) = .next t ∧ exec .deleteKey (s' 2) = .next t') ∧
    (∃ t t', exec .encrypt (s 3) = .next t ∧ exec .encrypt (s' 3) = .next t') ∧
    (∃ t t', exec .decrypt (s 4) = .next t ∧ exec .decrypt (s' 4) = .next t') ∧
    (∃ t t', exec .compress (s 5) = .next t ∧ exec .compress (s' 5) = .next t') ∧
    ∃ t t', exec .sbox (s 6) = .next t ∧ exec .sbox (s' 6) = .next t' :=
  ⟨⟨_, _, rfl, rfl⟩, ⟨_, _, rfl, rfl⟩, ⟨_, _, rfl, rfl⟩, ⟨_, _, rfl, rfl⟩, ⟨_, _, rfl, rfl⟩,
    ⟨_, _, rfl, rfl⟩⟩

/-- For the statements about every command whose completion answers a next state. -/
theorem test_meets_every_command :
    (∃ t, exec .nop (running keyed 0 0 0) = .next t) ∧
    (∃ t, exec (.illegal 7) (running keyed 7 0 0) = .next t ∧ t.fce.err = true) ∧
    (∃ t, exec .compress (running keyed 5 0 0) = .next t ∧ 0x10#6 ∉ writtenOffsets .compress) :=
  ⟨⟨_, rfl⟩, ⟨_, rfl, rfl⟩, ⟨_, rfl, by decide⟩⟩

theorem test_meets_preimage :
    let s := running Fce.reset 5 0x1F76#16 0x1234#16
    s.fce.pend.pdin = dec (keySchedule s.fce.pend.pkin) 0x0000#16 ∧
      ∃ t, exec .compress s = .next t := ⟨by decide, _, rfl⟩

theorem test_meets_w1c_before_completion :
    let s := running Fce.reset 0 0 0 [.access (.write 0x08#6 4 0x2#32), .engine]
    s.engineEnabled = true ∧ s.agenda = .access (.write 0x08#6 4 0x2#32) :: .engine :: [] := by decide

theorem test_meets_idle_and_busy : Fce.reset.busy = false ∧ (running keyed 3 0 0).fce.busy = true := by
  decide

theorem test_meets_error :
    ∃ t, exec .encrypt (running Fce.reset 3 0 0) = .next t ∧ t.fce.err = true := ⟨_, rfl, rfl⟩

/-- The first and the last address of a window, and the ones beside it. -/
theorem test_meets_window (k : Nat) :
    (Config.baseAddr k ≤ Config.baseAddr k ∧ Config.baseAddr k < Config.baseAddr k + 64) ∧
    (Config.baseAddr k ≤ Config.baseAddr k + 63 ∧ Config.baseAddr k + 63 < Config.baseAddr k + 64) ∧
    Config.baseAddr k + 64 ≤ Config.baseAddr k + 64 := by omega

theorem test_meets_bad_offset_or_width : (63 < 64 ∧ (4 ≠ 4 ∨ 63 % 4 ≠ 0)) ∧ (60 < 64 ∧ (2 ≠ 4 ∨ 60 % 4 ≠ 0)) := by
  decide

/-- A bad alignment, a bad width, and the last and first supported offsets. -/
theorem test_meets_unsupported_access :
    ¬ (4 = 4 ∧ (0x3F#6 : Offset).toNat % 4 = 0) ∧ ¬ (2 = 4 ∧ (0x10#6 : Offset).toNat % 4 = 0) ∧
    (0x3C#6 : Offset).toNat % 4 = 0 ∧ (0x00#6 : Offset).toNat % 4 = 0 := by decide

/-- The same access on the agenda of a state outside reset. -/
theorem test_meets_access_next :
    let s (a : Access) : State := { State.reset with agenda := [.access a] }
    (s (.read 0x02#6 4)).inReset = false ∧
      (s (.read 0x02#6 4)).agenda = [.access (.read 0x02#6 4)] := by decide

theorem test_meets_idempotent_writes :
    ∀ off ∈ [0x08#6, 0x0C#6, 0x10#6, 0x14#6],
      ∃ g h, keyed.memWrite off 4 0xFFFFFFFF#32 = .ok g ∧ g.memWrite off 4 0xFFFFFFFF#32 = .ok h := by
  intro off h
  fin_cases h <;> exact ⟨_, _, rfl, rfl⟩

theorem test_meets_repeated_command :
    Fce.reset.busy = false ∧ Fce.reset.overrun = false ∧ ∃ g h,
      Fce.reset.memWrite 0x04#6 4 0x3#32 = .ok g ∧ g.memWrite 0x04#6 4 0x3#32 = .ok h :=
  ⟨rfl, rfl, _, _, rfl, rfl⟩

/-- Both halves of a written word, and a DOUT that holds two bytes. -/
theorem test_meets_block_bytes :
    (0xFFFF6162#32 : Word).extractLsb' 8 8 = 0x61#8 ∧ (0xFFFF6162#32 : Word).extractLsb' 0 8 = 0x62#8 ∧
    ({ keyed with dout := 0x6162#16 } : Fce).dout = blockOfBytes 0x61#8 0x62#8 := by decide

theorem test_meets_interrupt_clear :
    ((0x2#32 : Word).getLsbD 1 = true ∧ ∃ g, keyed.memWrite 0x08#6 4 0x2#32 = .ok g) ∧
    (keyed.busy = false ∧ ∃ g, keyed.memWrite 0x04#6 4 0x0#32 = .ok g) ∧
    ((0x0#32 : Word).getLsbD 0 = false ∧ ∃ g, keyed.memWrite 0x0C#6 4 0x0#32 = .ok g) :=
  ⟨⟨rfl, _, rfl⟩, ⟨rfl, _, rfl⟩, ⟨rfl, _, rfl⟩⟩

/-- The line rises at a completion, and at the unmasking of a DONE that is set. -/
theorem test_meets_interrupt_rise :
    (∃ t, step (running { Fce.reset with doneIe := true } 0 0 0) = .next t ∧
      (running { Fce.reset with doneIe := true } 0 0 0).irq = false ∧ t.irq = true) ∧
    ∃ t, step { State.reset with
        fce := { Fce.reset with done := true }, agenda := [.access (.write 0x0C#6 4 1)] } = .next t ∧
      t.irq = true := ⟨⟨_, rfl, rfl, rfl⟩, ⟨_, rfl, rfl⟩⟩

/-- A completion with nothing left on the agenda, and one at the engine's turn. -/
theorem test_meets_step_runs :
    (running keyed 3 0 0).CompletesNext ∧ (running keyed 3 0 0 [.engine]).CompletesNext ∧
    decodeLanes (lanesOfWord (running keyed 3 0 0).fce.pend.pcmd) = .ok (.encrypt, []) ∧
    Instr.encrypt.wellFormed = true := by decide

theorem test_meets_agenda_order :
    (∃ t, step { running keyed 3 0 0 with agenda := [.engine] } = .next t) ∧
    (∃ t, step { State.reset with agenda := [.engine] } = .next t) ∧
    (State.reset.agenda = [] ∧ State.reset.engineEnabled = false ∧ ∃ t, step State.reset = .next t) ∧
    ∃ w, Fce.reset.memRead 0x08#6 4 = .ok w ∧ w.getLsbD 0 = false :=
  ⟨⟨_, rfl⟩, ⟨_, rfl⟩, ⟨rfl, rfl, _, rfl⟩, ⟨_, rfl, rfl⟩⟩

theorem test_meets_accepted_command_completes :
    let s := running keyed 3 0 0 [.access (.read 0x08#6 4)]
    s.engineEnabled = true ∧ ∀ b, Event.reset b ∉ s.agenda := by decide

theorem test_meets_no_completion :
    let s := running keyed 3 0 0 [.access (.write 0x10#6 4 7)]
    (∃ t, step s = .next t) ∧ ¬ s.CompletesNext ∧ ¬ s.ResetNext :=
  ⟨⟨_, rfl⟩, by decide, by rintro ⟨b, h⟩; cases h⟩

theorem test_meets_invariants :
    (running keyed 3 0 0).Inv ∧ State.reset.Inv ∧ (∃ t, step (running keyed 3 0 0) = .next t) ∧
    (keyed.keyValid = true → keyed.rk = keySchedule keyed.key) :=
  ⟨by decide, by decide, ⟨_, rfl⟩, by decide⟩

/-- A state of the invariant in which reset is asserted. -/
theorem test_meets_invariant_in_reset :
    ({ State.reset with inReset := true } : State).Inv := by decide

theorem test_meets_supported_agenda :
    let s := running keyed 3 0 0 [.access (.read 0x3C#6 4), .engine]
    s.inReset = false ∧ (∀ b, Event.reset b ∉ s.agenda) ∧
    (∀ a, Event.access a ∈ s.agenda → a.Supported) ∧ s.NoFaultYet ∧ ∃ t, step s = .next t := by
  refine ⟨rfl, by decide, ?_, ?_, _, rfl⟩
  · intro a h; simp [running] at h; subst h; decide
  · intro r h; cases h

theorem test_meets_end_of_reset :
    let s : State := { running keyed 3 0 0 with inReset := true, agenda := [.reset false] }
    s.inReset = true ∧ s.agenda = [.reset false] := by decide

theorem test_meets_reset_while_busy :
    let s := running keyed 3 0 0 [.reset true, .engine, .access (.read 0x18#6 4), .reset false]
    s.agenda = .reset true :: .engine :: .access (.read 0x18#6 4) :: .reset false :: [] ∧
    s.fce.busy = true := by decide

theorem test_meets_access_in_reset :
    let s : State := { State.reset with inReset := true, agenda := [.access (.read 0x00#6 4)] }
    s.inReset = true ∧ s.agenda = [.access (.read 0x00#6 4)] := by decide

/-- The first and the last address of a window, and the one after them, wherever the window lies. -/
theorem test_meets_instances :
    (0 : Nat) ≠ 1 ∧ windowOffset 0 (Config.baseAddr 0) = some 0#6 ∧
    windowOffset 0 (Config.baseAddr 0 + 63) = some 63#6 ∧ [State.reset][0]? = some State.reset ∧
    ∀ k, k < [State.reset].length → windowOffset k (Config.baseAddr 0 + 64) = none := by
  refine ⟨by decide, windowOffset_eq_some.2 rfl, windowOffset_eq_some.2 rfl, rfl, ?_⟩
  intro k hk
  obtain rfl : k = 0 := by simpa using hk
  unfold windowOffset
  rw [if_neg (by omega)]

theorem test_meets_host_statements :
    (Session.start [.wr .din (.lit 5#32)] State.reset).program[0]? = some (.wr .din (.lit 5#32)) ∧
    (Session.start [.rd 0 .status] State.reset).program[0]? = some (.rd 0 .status) ∧
    (Session.start [.rd 0 .status] State.reset).dev.inReset = false := by decide

end Sys2Proof.Tests
end

section
/-! PROOFS. Byte rotation, bit by bit (00_scope.md R8). -/

namespace Sys2Proof.Machine

/-- Bit `i` goes to bit `(i + n) mod 8`. -/
theorem getLsbD_rotl8 (b : Byte) {n i : Nat} (hn : n ≤ 8) (hi : i < 8) :
    (rotl8 b n).getLsbD ((i + n) % 8) = b.getLsbD i := by
  simp only [rotl8, BitVec.getLsbD_or, BitVec.getLsbD_shiftLeft, BitVec.getLsbD_ushiftRight]
  by_cases hwrap : i + n < 8
  · have hidx : (i + n) % 8 = i + n := by omega
    have hhigh : b.getLsbD (8 - n + (i + n)) = false := b.getLsbD_of_ge _ (by omega)
    simp [hidx, hwrap, hhigh]
  · have hidx : (i + n) % 8 = i + n - 8 := by omega
    have hlow : i + n - 8 < n := by omega
    have hback : 8 - n + (i + n - 8) = i := by omega
    simp [hidx, hlow, hback]

/-- The formula of R8 on 16-bit values, of which the low byte is kept. -/
theorem rotl8_eq_extractLsb' (b : Byte) {n : Nat} (hn : n ≤ 8) :
    rotl8 b n = ((b.setWidth 16 <<< n) ||| (b.setWidth 16 >>> (8 - n))).extractLsb' 0 8 := by
  refine BitVec.eq_of_getLsbD_eq fun i hi => ?_
  have hwide : i < 16 ∧ i - n < 16 ∧ 8 - n + i < 16 := by omega
  simp only [rotl8, BitVec.getLsbD_extractLsb', BitVec.getLsbD_or, BitVec.getLsbD_shiftLeft,
    BitVec.getLsbD_ushiftRight, BitVec.getLsbD_setWidth, Nat.zero_add, hi, hwide, decide_true,
    Bool.true_and]

/-- Rotating the rest of the way round moves every bit back to its place. -/
theorem rotl8_rotl8_rest (b : Byte) {n : Nat} (hn : n ≤ 8) :
    rotl8 (rotl8 b n) (8 - n) = b := by
  refine BitVec.eq_of_getLsbD_eq fun i hi => ?_
  have hround : ((i + n) % 8 + (8 - n)) % 8 = i := by omega
  calc (rotl8 (rotl8 b n) (8 - n)).getLsbD i
      = (rotl8 (rotl8 b n) (8 - n)).getLsbD (((i + n) % 8 + (8 - n)) % 8) := by rw [hround]
    _ = (rotl8 b n).getLsbD ((i + n) % 8) := getLsbD_rotl8 _ (by omega) (by omega)
    _ = b.getLsbD i := getLsbD_rotl8 b hn hi

theorem rotl8_zero (b : Byte) : rotl8 b 0 = b := by
  simp [rotl8, BitVec.ushiftRight_eq_zero]

theorem rotl8_eight (b : Byte) : rotl8 b 8 = b := by
  simp [rotl8, BitVec.shiftLeft_eq_zero]

/-- Settles O5, from where each bit goes. -/
theorem rotateLeftWrapsAndIsUndone : Obligations.RotateLeftWrapsAndIsUndone := fun b _ hn =>
  ⟨rotl8_eq_extractLsb' b hn, rotl8_zero b, rotl8_eight b, fun _ hi => getLsbD_rotl8 b hn hi,
    rotl8_rotl8_rest b hn⟩

end Sys2Proof.Machine
end

section
/-! PROOFS. The frame of a completion (00_scope.md R11; 30_encoding.md R106). -/

namespace Sys2Proof.Machine

/-- Before `complete()` a command writes no register but KEY, RK, KEY_VALID and DOUT, before
`raise Error` none, and outside the registers nothing at all. -/
theorem exec_writes_only {i : Instr} {s t : State} (h : exec i s = .next t) :
    (∃ key rk keyValid dout, t = { s with fce := { s.fce with
      key := key, rk := rk, keyValid := keyValid, dout := dout }.completeStatus }) ∨
    ∃ e, t = { s with fce := s.fce.raiseStatus e } := by
  rcases exec_cases h with ⟨-, ht⟩ | ⟨-, ht⟩ | ⟨-, ht⟩ | ⟨-, -, ht⟩ | ⟨-, -, ht⟩ | ⟨-, ht⟩ |
    ⟨-, -, ht⟩ | ⟨-, -, ht⟩ | ⟨-, -, ht⟩ | ⟨-, ht⟩
  iterate 7 exact .inl ⟨_, _, _, _, ht⟩
  all_goals exact .inr ⟨_, ht⟩

/-- Settles O25: neither end of a command names a host register, PEND or anything outside. -/
theorem everyCommandLeavesTheHostRegistersAlone :
    Obligations.EveryCommandLeavesTheHostRegistersAlone := by
  intro i s t h
  rcases exec_writes_only h with ⟨_, _, _, _, rfl⟩ | ⟨_, rfl⟩ <;> simp

/-- A completion ends the command's life: BUSY 0 and DONE 1 (R106). -/
theorem exec_busy_done {i : Instr} {s t : State} (h : exec i s = .next t) :
    t.fce.busy = false ∧ t.fce.done = true := by
  rcases exec_writes_only h with ⟨_, _, _, _, rfl⟩ | ⟨_, rfl⟩ <;> simp

theorem cipherCommand_total (o : KeyOrder) (s : State) : ∃ t, cipherCommand o s = .next t := by
  cases hkey : s.fce.keyValid with
  | true => exact ⟨_, (cipherCommand_next o s _).2 (.inl ⟨hkey, rfl⟩)⟩
  | false => exact ⟨_, (cipherCommand_next o s _).2 (.inr ⟨hkey, rfl⟩)⟩

theorem execSbox_total (s : State) : ∃ t, execSbox s = .next t := by
  by_cases hindex : indexHigh s.fce.opDin = 0
  · exact ⟨_, (execSbox_next s _).2 (.inl ⟨hindex, rfl⟩)⟩
  · exact ⟨_, (execSbox_next s _).2 (.inr ⟨hindex, rfl⟩)⟩

/-- No command is refused and none faults: an error is one of a command's two ends (R106). -/
theorem exec_total (i : Instr) (s : State) : ∃ t, exec i s = .next t := by
  cases i with
  | nop | loadKey | deleteKey | compress | illegal _ => exact ⟨_, rfl⟩
  | encrypt => exact cipherCommand_total .forward s
  | decrypt => exact cipherCommand_total .reverse s
  | sbox => exact execSbox_total s

end Sys2Proof.Machine
end

section
/-! PROOFS. The step, one equation for each kind of entry on the agenda (00_scope.md R12;
20_memory.md R71), and the order of what happens. -/

namespace Sys2Proof.Machine

theorem step_of_agenda_nil {s : State} (h : s.agenda = []) : step s = engineTurn s := by
  simp [step, h]

theorem step_of_agenda_engine {s : State} {rest : List Event} (h : s.agenda = .engine :: rest) :
    step s = engineTurn { s with agenda := rest } := by
  simp [step, h]

/-- Outside reset the window services the next access (20_memory.md R65, R66). -/
theorem step_of_agenda_access {s : State} {a : Access} {rest : List Event}
    (hreset : s.inReset = false) (h : s.agenda = .access a :: rest) :
    step s = .next { s with
      fce := (s.fce.access a).1, agenda := rest, answers := (s.fce.access a).2 :: s.answers } := by
  simp [step, h, State.serviceAccess, hreset]

theorem engineTurn_of_enabled {s : State} (h : s.engineEnabled = true) :
    engineTurn s = exec s.fce.pendingInstr s := by
  simp [engineTurn, h]

/-- A turn of the engine takes nothing from the agenda and answers no access. -/
theorem engineTurn_keeps_agenda_answers {s t : State} (h : engineTurn s = .next t) :
    t.agenda = s.agenda ∧ t.answers = s.answers := by
  rcases engineTurn_cases h with ⟨-, hexec⟩ | ⟨-, rfl⟩
  · obtain ⟨-, -, -, -, -, -, -, hagenda, hanswers⟩ :=
      everyCommandLeavesTheHostRegistersAlone _ _ _ hexec
    exact ⟨hagenda, hanswers⟩
  · exact ⟨rfl, rfl⟩

/-- A turn of an engine that is not enabled does nothing. -/
theorem engineTurn_of_disabled {s t : State} (hs : s.engineEnabled = false)
    (h : engineTurn s = .next t) : t = s := by
  simpa [engineTurn, hs, eq_comm] using h

theorem Fce.memRead_status (f : Fce) : f.memRead 0x08#6 4 = .ok f.statusWord :=
  f.memRead_reg (r := .status) rfl rfl

/-- BUSY is bit 0 of STATUS (10_state.md R25). -/
theorem Fce.statusWord_getLsbD_zero (f : Fce) : f.statusWord.getLsbD 0 = f.busy := by
  simp only [Fce.statusWord, BitVec.getLsbD_setWidth, BitVec.getLsbD_append,
    BitVec.getLsbD_ofBool]
  simp

/-- Settles O48, by the step's equation for the entry that is next. -/
theorem agendaHappensInOrder : Obligations.AgendaHappensInOrder := by
  refine ⟨fun _ _ _ => step_of_agenda_access, fun s t rest hagenda hstep => ?_,
    fun s t hagenda hidle hstep => ?_, fun f w hread hbit => ?_⟩
  · rw [step_of_agenda_engine hagenda] at hstep
    obtain ⟨hrest, hanswers⟩ := engineTurn_keeps_agenda_answers hstep
    refine ⟨hrest, hanswers, fun hidle => ?_⟩
    rw [engineTurn_of_disabled (s := { s with agenda := rest }) hidle hstep]
  · rw [step_of_agenda_nil hagenda] at hstep
    exact engineTurn_of_disabled hidle hstep
  · obtain rfl : f.statusWord = w := by simpa [f.memRead_status] using hread
    rwa [f.statusWord_getLsbD_zero] at hbit

end Sys2Proof.Machine
end

section
/-! PROOFS. A pending command stays pending until it completes (30_encoding.md R105, R107;
70_reset_and_hazards.md R243). -/

namespace Sys2Proof.Machine

/-- While a command runs no register write ends it or changes its snapshot: a write to CMD, the one
that latches a snapshot, is dropped. -/
theorem Fce.writeReg_keeps_pending {f : Fce} (v : Word) (r : Reg) (hbusy : f.busy = true) :
    (f.writeReg v r).busy = true ∧ (f.writeReg v r).pend = f.pend := by
  cases r with
  | cmd =>
    change (f.issueCommand v).busy = true ∧ (f.issueCommand v).pend = f.pend
    rw [Fce.issueCommand_busy v hbusy]
    exact ⟨hbusy, rfl⟩
  | id | status | irqEn | din | kin | dout | key | rk03 | rk47 => exact ⟨hbusy, rfl⟩

/-- While a command runs no access ends it or changes its snapshot (R103, R107). -/
theorem Fce.access_keeps_pending {f : Fce} (a : Access) (hbusy : f.busy = true) :
    (f.access a).1.busy = true ∧ (f.access a).1.pend = f.pend := by
  rcases f.access_cases a with hsame | ⟨_, _, v, r, -, -, -, hwrite⟩
  · rw [hsame]
    exact ⟨hbusy, rfl⟩
  · rw [hwrite]
    exact Fce.writeReg_keeps_pending v r hbusy

theorem State.engineEnabled_iff {s : State} :
    s.engineEnabled = true ↔ s.fce.busy = true ∧ s.inReset = false := by
  simp [State.engineEnabled]

/-- Where the engine moves next, the step is the completion of the pending command. -/
theorem step_of_completesNext {s : State} (h : s.CompletesNext) :
    step s = exec s.fce.pendingInstr { s with agenda := s.agenda.tail } := by
  obtain ⟨henabled, hnil | hhead⟩ := h
  · rw [step_of_agenda_nil hnil, engineTurn_of_enabled henabled, hnil, List.tail_nil, ← hnil]
  · obtain ⟨rest, hagenda⟩ := List.head?_eq_some_iff.1 hhead
    rw [step_of_agenda_engine hagenda, hagenda, List.tail_cons]
    exact engineTurn_of_enabled (s := { s with agenda := rest }) henabled

theorem run_succ_of_step {s t : State} (n : Nat) (h : step s = .next t) :
    Sys2Proof.core.run (n + 1) s = Sys2Proof.core.run n t := by
  simp [Host.Core.run, Sys2Proof.core, h]

/-- With no reset on the agenda, the engine moves on the pending command when the accesses before its
turn have been serviced, or else on the empty agenda. -/
theorem reaches_completion_of_pending {s : State} (henabled : s.engineEnabled = true)
    (hnoReset : ∀ b, Event.reset b ∉ s.agenda) :
    ∃ n u, n ≤ s.agenda.length ∧ Sys2Proof.core.run n s = .next u ∧ u.CompletesNext ∧
      u.fce.pend = s.fce.pend := by
  induction hagenda : s.agenda generalizing s with
  | nil => exact ⟨0, s, Nat.le_refl 0, rfl, ⟨henabled, .inl hagenda⟩, rfl⟩
  | cons e rest ih =>
    cases e with
    | engine => exact ⟨0, s, Nat.zero_le _, rfl, ⟨henabled, .inr (by rw [hagenda]; rfl)⟩, rfl⟩
    | reset b => exact absurd (by simp [hagenda]) (hnoReset b)
    | access a =>
      obtain ⟨hbusy, hreset⟩ := State.engineEnabled_iff.1 henabled
      obtain ⟨hbusy', hpend⟩ := Fce.access_keeps_pending a hbusy
      have hnoReset' : ∀ b, Event.reset b ∉ rest :=
        fun b hb => hnoReset b (by simp [hagenda, hb])
      have hstep := step_of_agenda_access hreset hagenda
      obtain ⟨n, u, hn, hrun, hnext, hpend'⟩ := ih (s := { s with
          fce := (s.fce.access a).1, agenda := rest, answers := (s.fce.access a).2 :: s.answers })
        (State.engineEnabled_iff.2 ⟨hbusy', hreset⟩) hnoReset' rfl
      exact ⟨n + 1, u, Nat.succ_le_succ hn, (run_succ_of_step n hstep).trans hrun, hnext,
        hpend'.trans hpend⟩

/-- Settles O49, by induction on the agenda up to the engine's move, which ends the command. -/
theorem everyAcceptedCommandCompletes : Obligations.EveryAcceptedCommandCompletes := by
  intro s henabled hnoReset
  obtain ⟨n, u, hn, hrun, hnext, hpend⟩ := reaches_completion_of_pending henabled hnoReset
  obtain ⟨t, hexec⟩ := exec_total u.fce.pendingInstr { u with agenda := u.agenda.tail }
  obtain ⟨hbusy, hdone⟩ := exec_busy_done hexec
  exact ⟨n, u, t, hn, hrun, hnext, hpend, (step_of_completesNext hnext).trans hexec, hbusy, hdone⟩

end Sys2Proof.Machine
end

section
/-! PROOFS. The instances of a platform share nothing (60_exceptions.md R225). -/

namespace Sys2Proof.Machine

theorem Platform.stepInstance_getElem?_ne (p : Platform) {j k : Nat} (hjk : j ≠ k) :
    (p.stepInstance k)[j]? = p[j]? := by
  unfold Platform.stepInstance
  split
  · split
    · exact List.getElem?_set_ne hjk.symm
    · rfl
    · rfl
  · rfl

/-- An address is in one window at most (20_memory.md R61). -/
theorem index_eq_of_windowOffset {addr j k : Nat} (hj : windowOffset j addr ≠ none)
    (hk : windowOffset k addr ≠ none) : j = k := by
  obtain ⟨offj, hoffj⟩ := Option.ne_none_iff_exists'.1 hj
  obtain ⟨offk, hoffk⟩ := Option.ne_none_iff_exists'.1 hk
  have haddrj := windowOffset_eq_some.1 hoffj
  have haddrk := windowOffset_eq_some.1 hoffk
  have hltj := offj.isLt
  have hltk := offk.isLt
  apply Config.windowIndex_injective
  unfold Config.baseAddr at haddrj haddrk
  omega

/-- An access arrives last at the FCE whose window holds its address. -/
theorem Platform.arrive_getElem?_inside {p : Platform} {addr k : Nat} {mk : Offset → Access}
    {s : State} {off : Offset} (hoff : windowOffset k addr = some off) (hs : p[k]? = some s) :
    (p.arrive addr mk)[k]? = some { s with agenda := s.agenda ++ [.access (mk off)] } := by
  simp [Platform.arrive, hs, hoff]

/-- An access leaves an FCE as it was whose window does not hold its address. -/
theorem Platform.arrive_getElem?_outside {p : Platform} {addr k : Nat} {mk : Offset → Access}
    (hoff : windowOffset k addr = none) : (p.arrive addr mk)[k]? = p[k]? := by
  simp [Platform.arrive, hoff]

theorem Platform.arrive_eq_set {p : Platform} {addr k : Nat} {mk : Offset → Access} {s : State}
    {off : Offset} (hoff : windowOffset k addr = some off) (hs : p[k]? = some s) :
    p.arrive addr mk = p.set k { s with agenda := s.agenda ++ [.access (mk off)] } := by
  refine List.ext_getElem? fun j => ?_
  by_cases hjk : k = j
  · subst hjk
    obtain ⟨hlt, -⟩ := List.getElem?_eq_some_iff.1 hs
    rw [Platform.arrive_getElem?_inside hoff hs, List.getElem?_set_self hlt]
  · have hother : windowOffset j addr = none := by
      by_contra hj
      exact hjk (index_eq_of_windowOffset (by simp [hoff]) hj)
    rw [Platform.arrive_getElem?_outside hother, List.getElem?_set_ne hjk]

/-- An access to an address of no window reaches no FCE. -/
theorem Platform.arrive_eq_self {p : Platform} {addr : Nat} {mk : Offset → Access}
    (hoff : ∀ k, k < p.length → windowOffset k addr = none) : p.arrive addr mk = p := by
  refine List.ext_getElem? fun j => ?_
  by_cases hj : j < p.length
  · exact Platform.arrive_getElem?_outside (hoff j hj)
  · have hlen : (p.arrive addr mk).length = p.length := List.length_mapIdx
    rw [List.getElem?_eq_none (by omega), List.getElem?_eq_none (by omega)]

theorem Platform.irqs_getElem? {p : Platform} {k : Nat} {s : State} (hs : p[k]? = some s) :
    p.irqs[k]? = some (s.fce.doneIe && s.fce.done) := by
  simp [Platform.irqs, hs, State.irq, Fce.irq]

theorem Platform.length_reset : Platform.reset.length = Config.extraInstances + 1 :=
  List.length_replicate

/-- Settles O57: a step and an access each reach one index of the platform's list at most. -/
theorem instancesShareNothing : Obligations.InstancesShareNothing := by
  refine ⟨fun p _ _ hjk => p.stepInstance_getElem?_ne hjk,
    fun _ _ _ hj hk => index_eq_of_windowOffset hj hk,
    fun _ _ _ _ _ _ hoff hs => Platform.arrive_eq_set hoff hs,
    fun _ _ _ hoff => Platform.arrive_eq_self hoff,
    fun _ _ _ hs => Platform.irqs_getElem? hs, ?_, fun s hs => List.eq_of_mem_replicate hs⟩
  rw [Platform.length_reset]
  omega

end Sys2Proof.Machine
end

section
/-! PROOFS. What a step can do to the register record, and with it the one principle by which every
invariant of the registers is proved. -/

namespace Sys2Proof.Machine

/-- An access leaves the registers alone or writes one of them (20_memory.md R65, R66). -/
theorem Fce.access_eq_self_or_writeReg (f : Fce) (a : Access) :
    (f.access a).1 = f ∨ ∃ v r, (f.access a).1 = f.writeReg v r := by
  rcases f.access_cases a with hsame | ⟨_, _, v, r, -, -, -, hwrite⟩
  · exact .inl hsame
  · exact .inr ⟨v, r, hwrite⟩

/-- A change of the reset input resets the registers or leaves them alone (R240, R241). -/
theorem State.resetLine_fce (b : Bool) (s : State) :
    (s.resetLine b).fce = Fce.reset ∨ (s.resetLine b).fce = s.fce := by
  cases b with
  | true => exact .inl rfl
  | false => cases hreset : s.inReset <;> simp [State.resetLine, hreset]

/-- A turn of the engine leaves the registers alone or is the pending command's completion (R105). -/
theorem engineTurn_fce_eq_or_exec {s t : State} (h : engineTurn s = .next t) :
    t.fce = s.fce ∨ exec s.fce.pendingInstr s = .next t := by
  rcases engineTurn_cases h with ⟨-, hexec⟩ | ⟨-, rfl⟩
  · exact .inr hexec
  · exact .inl rfl

/-- Everything a step can do to the registers: nothing, a completion, a register write of the host,
or a reset. -/
theorem step_fce_cases {s t : State} (h : step s = .next t) :
    t.fce = s.fce ∨ (∃ i u, u.fce = s.fce ∧ exec i u = .next t) ∨
    (∃ v r, t.fce = s.fce.writeReg v r) ∨ t.fce = Fce.reset := by
  rcases step_cases h with ⟨-, h⟩ | ⟨rest, -, h⟩ | ⟨a, rest, -, rfl⟩ | ⟨b, rest, -, rfl⟩
  · exact (engineTurn_fce_eq_or_exec h).imp_right fun hexec => .inl ⟨_, s, rfl, hexec⟩
  · exact (engineTurn_fce_eq_or_exec h).imp_right fun hexec =>
      .inl ⟨_, { s with agenda := rest }, rfl, hexec⟩
  · rcases State.serviceAccess_cases a { s with agenda := rest } with ⟨-, hs⟩ | ⟨-, hs⟩ <;> rw [hs]
    · exact (s.fce.access_eq_self_or_writeReg a).imp_right fun hwrite => .inr (.inl hwrite)
    · exact .inl rfl
  · rcases State.resetLine_fce b { s with agenda := rest } with hreset | hsame
    · exact .inr (.inr (.inr hreset))
    · exact .inl hsame

/-- A property of the registers that holds at reset and that register writes and completions keep is
kept by every step. -/
theorem step_keeps_of_write_exec_reset {P : Fce → Prop} (hreset : P Fce.reset)
    (hwrite : ∀ (f : Fce) (v : Word) (r : Reg), P f → P (f.writeReg v r))
    (hexec : ∀ (i : Instr) (s t : State), exec i s = .next t → P s.fce → P t.fce)
    {s t : State} (hs : P s.fce) (hstep : step s = .next t) : P t.fce := by
  rcases step_fce_cases hstep with hsame | ⟨i, u, hu, hend⟩ | ⟨v, r, hreg⟩ | hinit
  · rwa [hsame]
  · exact hexec i u t hend (by rwa [hu])
  · rw [hreg]
    exact hwrite s.fce v r hs
  · rwa [hinit]

end Sys2Proof.Machine
end

section
/-! PROOFS. The cipher state KEY, RK and KEY_VALID, and its invariant (10_state.md R33). -/

namespace Sys2Proof.Machine

/-- KEY, RK and KEY_VALID of two register records are the same. -/
def Fce.SameCipherState (f g : Fce) : Prop :=
  f.key = g.key ∧ f.rk = g.rk ∧ f.keyValid = g.keyValid

/-- The invariant speaks of the cipher state only. -/
theorem Fce.CipherInv.of_same {f g : Fce} (hg : g.CipherInv) (h : f.SameCipherState g) :
    f.CipherInv := by
  obtain ⟨hkey, hrk, hvalid⟩ := h
  simpa only [Fce.CipherInv, hkey, hrk, hvalid] using hg

theorem Fce.cipherInv_reset : Fce.reset.CipherInv := ⟨nofun, fun _ => ⟨rfl, rfl⟩⟩

/-- No register write of the host reaches the cipher state. -/
theorem Fce.writeReg_sameCipherState (f : Fce) (v : Word) (r : Reg) :
    (f.writeReg v r).SameCipherState f := by
  rcases f.writeReg_cases v r with h | ⟨-, -, h⟩ | ⟨-, -, h⟩ | ⟨-, h⟩ | ⟨-, h⟩ | ⟨-, h⟩ | ⟨-, h⟩ <;>
    rw [h] <;> exact ⟨rfl, rfl, rfl⟩

/-- Everything a completion can do to the cipher state: load a key with its schedule, clear it, or
nothing (R33). -/
theorem exec_cipherState_cases {i : Instr} {s t : State} (h : exec i s = .next t) :
    ((i = .loadKey ∨ i = .compress) ∧
      t.fce.SameCipherState (s.fce.loadCipherState s.fce.opKin)) ∨
    (i = .deleteKey ∧ t.fce.SameCipherState s.fce.clearCipherState) ∨
    t.fce.SameCipherState s.fce := by
  rcases exec_cases h with ⟨-, rfl⟩ | ⟨hi, rfl⟩ | ⟨hi, rfl⟩ | ⟨-, -, rfl⟩ | ⟨-, -, rfl⟩ | ⟨hi, rfl⟩ |
    ⟨-, -, rfl⟩ | ⟨-, -, rfl⟩ | ⟨-, -, rfl⟩ | ⟨-, rfl⟩
  · exact .inr (.inr ⟨rfl, rfl, rfl⟩)
  · exact .inl ⟨.inl hi, rfl, rfl, rfl⟩
  · exact .inr (.inl ⟨hi, rfl, rfl, rfl⟩)
  iterate 2 exact .inr (.inr ⟨rfl, rfl, rfl⟩)
  · exact .inl ⟨.inr hi, rfl, rfl, rfl⟩
  all_goals exact .inr (.inr ⟨rfl, rfl, rfl⟩)

theorem Fce.cipherInv_loadCipherState (kin : Block) (f : Fce) :
    (f.loadCipherState kin).CipherInv := ⟨fun _ => rfl, nofun⟩

theorem Fce.cipherInv_clearCipherState (f : Fce) : f.clearCipherState.CipherInv :=
  ⟨nofun, fun _ => ⟨rfl, rfl⟩⟩

theorem exec_keeps_cipherInv (i : Instr) (s t : State) (h : exec i s = .next t)
    (hs : s.fce.CipherInv) : t.fce.CipherInv := by
  rcases exec_cipherState_cases h with ⟨-, hload⟩ | ⟨-, hclear⟩ | hsame
  · exact (Fce.cipherInv_loadCipherState _ _).of_same hload
  · exact (Fce.cipherInv_clearCipherState _).of_same hclear
  · exact hs.of_same hsame

theorem step_keeps_cipherInv {s t : State} (hs : s.fce.CipherInv) (hstep : step s = .next t) :
    t.fce.CipherInv :=
  step_keeps_of_write_exec_reset (P := Fce.CipherInv) Fce.cipherInv_reset
    (fun f v r hf => hf.of_same (f.writeReg_sameCipherState v r)) exec_keeps_cipherInv hs hstep

/-- Only the round-key file of zeros reads as eight zero bytes. -/
theorem RoundKeys.toList_eq_replicate_zero_iff {k : RoundKeys} :
    k.toList = List.replicate 8 0x00#8 ↔ k = RoundKeys.zero := by
  cases k
  simp [RoundKeys.toList, RoundKeys.zero, List.replicate]

/-- Settles O51, from the three things a completion can do to the cipher state. -/
theorem stepKeepsTheCipherStateInvariant : Obligations.StepKeepsTheCipherStateInvariant := by
  simp only [Obligations.StepKeepsTheCipherStateInvariant, RoundKeys.toList_eq_replicate_zero_iff]
  refine ⟨fun s t hs hstep => step_keeps_cipherInv hs hstep, Fce.cipherInv_reset,
    fun i s t hexec hload hdelete hcompress => ?_⟩
  rcases exec_cipherState_cases hexec with ⟨hi | hi, -⟩ | ⟨hi, -⟩ | hsame
  · exact absurd hi hload
  · exact absurd hi hcompress
  · exact absurd hi hdelete
  · exact hsame

end Sys2Proof.Machine
end

section
/-! PROOFS. The life-cycle of STATUS (30_encoding.md R103 to R107; 60_exceptions.md R204), the
registers during reset (70_reset_and_hazards.md R240, R241), and the invariant of the machine. -/

namespace Sys2Proof.Machine

theorem Fce.lifeCycleInv_reset : Fce.reset.LifeCycleInv := by decide

theorem Fce.lifeCycleInv_accept (v : Word) (f : Fce) : (f.accept v).LifeCycleInv := by
  simp [Fce.LifeCycleInv]

/-- The invariant speaks only of the fields named here, and DONE may be cleared under it. -/
theorem Fce.LifeCycleInv.of_same {f g : Fce} (hg : g.LifeCycleInv) (hbusy : f.busy = g.busy)
    (hdone : g.done = false → f.done = false) (herr : f.err = g.err)
    (hcode : f.errCode = g.errCode) (hlast : f.lastCmd = g.lastCmd) (hpend : f.pend = g.pend) :
    f.LifeCycleInv := by
  obtain ⟨hrun, hagree, hpossible⟩ := hg
  simp only [Fce.LifeCycleInv, hbusy, herr, hcode, hlast, hpend]
  exact ⟨fun h => (hrun h).imp_left hdone, hagree, hpossible⟩

theorem Fce.writeReg_keeps_lifeCycleInv (f : Fce) (v : Word) (r : Reg) (hf : f.LifeCycleInv) :
    (f.writeReg v r).LifeCycleInv := by
  rcases f.writeReg_cases v r with h | ⟨-, -, h⟩ | ⟨-, -, h⟩ | ⟨-, h⟩ | ⟨-, h⟩ | ⟨-, h⟩ | ⟨-, h⟩ <;>
    rw [h]
  · exact hf
  · exact hf.of_same rfl id rfl rfl rfl rfl
  · exact f.lifeCycleInv_accept v
  · exact hf.of_same rfl (fun hdone => by simp [hdone]) rfl rfl rfl rfl
  all_goals exact hf.of_same rfl id rfl rfl rfl rfl

/-- The two ends of a command, and the one error that no command raises (R106, R204). -/
theorem exec_completes_or_raises {i : Instr} {s t : State} (h : exec i s = .next t) :
    (∃ f : Fce, t.fce = f.completeStatus) ∨
    ∃ e : ErrorKind, e ≠ .invalidKey ∧ t.fce = s.fce.raiseStatus e := by
  rcases exec_cases h with ⟨-, rfl⟩ | ⟨-, rfl⟩ | ⟨-, rfl⟩ | ⟨-, -, rfl⟩ | ⟨-, -, rfl⟩ | ⟨-, rfl⟩ |
    ⟨-, -, rfl⟩ | ⟨-, -, rfl⟩ | ⟨-, -, rfl⟩ | ⟨-, rfl⟩
  iterate 7 exact .inl ⟨_, rfl⟩
  all_goals exact .inr ⟨_, by nofun, rfl⟩

theorem Fce.lifeCycleInv_completeStatus (f : Fce) : f.completeStatus.LifeCycleInv := by
  simp [Fce.LifeCycleInv]

theorem ErrorKind.code_ne_zero (e : ErrorKind) : e.code ≠ 0x0#4 := by cases e <;> decide

theorem ErrorKind.code_mem_possibleCodes {e : ErrorKind} (he : e ≠ .invalidKey) :
    e.code ∈ possibleCodes := by
  cases e with
  | invalidKey => exact absurd rfl he
  | noKeyLoaded | invalidInput | invalidCommand => decide

theorem Fce.lifeCycleInv_raiseStatus {e : ErrorKind} (he : e ≠ .invalidKey) (f : Fce) :
    (f.raiseStatus e).LifeCycleInv :=
  ⟨nofun, iff_of_true rfl e.code_ne_zero, ErrorKind.code_mem_possibleCodes he⟩

/-- A completion establishes the life-cycle invariant, whatever came before it. -/
theorem exec_lifeCycleInv {i : Instr} {s t : State} (h : exec i s = .next t) :
    t.fce.LifeCycleInv := by
  rcases exec_completes_or_raises h with ⟨f, hf⟩ | ⟨e, he, hf⟩ <;> rw [hf]
  · exact f.lifeCycleInv_completeStatus
  · exact Fce.lifeCycleInv_raiseStatus he s.fce

theorem step_keeps_lifeCycleInv {s t : State} (hs : s.fce.LifeCycleInv)
    (hstep : step s = .next t) : t.fce.LifeCycleInv :=
  step_keeps_of_write_exec_reset (P := Fce.LifeCycleInv) Fce.lifeCycleInv_reset
    Fce.writeReg_keeps_lifeCycleInv (fun _ _ _ hexec _ => exec_lifeCycleInv hexec) hs hstep

/-- The engine moves only outside reset. -/
theorem engineTurn_keeps_resetInv {s t : State} (hs : s.ResetInv) (h : engineTurn s = .next t) :
    t.ResetInv := by
  rcases engineTurn_cases h with ⟨henabled, hexec⟩ | ⟨-, rfl⟩
  · obtain ⟨-, houtside⟩ := State.engineEnabled_iff.1 henabled
    obtain ⟨-, -, -, -, -, -, hline, -⟩ := everyCommandLeavesTheHostRegistersAlone _ _ _ hexec
    intro hreset
    simp [hline, houtside] at hreset
  · exact hs

/-- An access during reset is a fault, and changes no register. -/
theorem State.serviceAccess_keeps_resetInv {s : State} (a : Access) (hs : s.ResetInv) :
    (s.serviceAccess a).ResetInv := by
  rcases s.serviceAccess_cases a with ⟨houtside, hservice⟩ | ⟨-, hservice⟩ <;> rw [hservice]
  · intro hreset
    exact absurd (houtside.symm.trans hreset) Bool.false_ne_true
  · exact hs

theorem State.resetInv_resetLine (b : Bool) (s : State) : (s.resetLine b).ResetInv := by
  cases b with
  | true => exact fun _ => rfl
  | false => exact nofun

theorem step_keeps_resetInv {s t : State} (hs : s.ResetInv) (hstep : step s = .next t) :
    t.ResetInv := by
  rcases step_cases hstep with ⟨-, h⟩ | ⟨rest, -, h⟩ | ⟨a, rest, -, rfl⟩ | ⟨b, rest, -, rfl⟩
  · exact engineTurn_keeps_resetInv hs h
  · exact engineTurn_keeps_resetInv (s := { s with agenda := rest }) hs h
  · exact State.serviceAccess_keeps_resetInv (s := { s with agenda := rest }) a hs
  · exact State.resetInv_resetLine b { s with agenda := rest }

/-- Settles O52: every step keeps each part of the invariant on its own. -/
theorem stepKeepsTheMachineInvariant : Obligations.StepKeepsTheMachineInvariant := by
  rintro s t ⟨hcipher, hlife, hreset⟩ hstep
  exact ⟨step_keeps_cipherInv hcipher hstep, step_keeps_lifeCycleInv hlife hstep,
    step_keeps_resetInv hreset hstep⟩

/-- Settles O53: the reset record meets both invariants of the registers. -/
theorem resetStateIsGood : Obligations.ResetStateIsGood :=
  ⟨Fce.cipherInv_reset, Fce.lifeCycleInv_reset, fun _ => rfl⟩

end Sys2Proof.Machine
end

section
/-! PROOFS. The layout of STATUS, and what a host write to it changes (10_state.md R25). -/

namespace Sys2Proof.Machine

/-- Bit `i` of STATUS, by the table of R25. -/
def Fce.statusBit (f : Fce) : Nat → Bool
  | 0 => f.busy
  | 1 => f.done
  | 2 => f.err
  | 3 => f.errAny
  | 4 => f.errCode.getLsbD 0
  | 5 => f.errCode.getLsbD 1
  | 6 => f.errCode.getLsbD 2
  | 7 => f.errCode.getLsbD 3
  | 8 => f.keyValid
  | 9 => f.overrun
  | _ => false

theorem Fce.getLsbD_statusWord (f : Fce) (i : Nat) : f.statusWord.getLsbD i = f.statusBit i := by
  simp only [Fce.statusWord, BitVec.getLsbD_setWidth, BitVec.getLsbD_append, BitVec.getLsbD_ofBool]
  match i with
  | 0 | 1 | 2 | 3 | 4 | 5 | 6 | 7 | 8 | 9 => simp [Fce.statusBit]
  | n + 10 => simp [Fce.statusBit]

theorem Fce.extractLsb'_statusWord_errCode (f : Fce) :
    f.statusWord.extractLsb' 4 4 = f.errCode := by
  refine BitVec.eq_of_getLsbD_eq fun i hi => ?_
  rw [BitVec.getLsbD_extractLsb', f.getLsbD_statusWord]
  match i, hi with
  | 0, _ | 1, _ | 2, _ | 3, _ => rfl

theorem Fce.extractLsb'_statusWord_reserved (f : Fce) :
    f.statusWord.extractLsb' 10 22 = 0#22 := by
  refine BitVec.eq_of_getLsbD_eq fun i _ => ?_
  rw [BitVec.getLsbD_extractLsb', f.getLsbD_statusWord, Nat.add_comm]
  simp [Fce.statusBit]

theorem Fce.memWrite_status (f : Fce) (v : Word) : f.memWrite 0x08#6 4 v = .ok (f.clearStatus v) :=
  f.memWrite_reg (r := .status) v rfl rfl

/-- Settles O40, from the bits of the status word and the fields of `clearStatus`. -/
theorem statusBitsAreTheFlags : Obligations.StatusBitsAreTheFlags := by
  refine ⟨fun f => ⟨f.statusWord, f.memRead_status, f.getLsbD_statusWord 0, f.getLsbD_statusWord 1,
    f.getLsbD_statusWord 2, f.getLsbD_statusWord 3, f.extractLsb'_statusWord_errCode,
    f.getLsbD_statusWord 8, f.getLsbD_statusWord 9, f.extractLsb'_statusWord_reserved⟩,
    fun f v => ⟨f.clearStatus v, f.memWrite_status v, ?_, ?_, ?_, rfl⟩⟩ <;> simp

end Sys2Proof.Machine
end

section
/-! PROOFS. The byte lanes of a word (20_memory.md R63), and the read-only registers RK0_3, RK4_7
(10_state.md R31, R32) and ID (R23). -/

namespace Sys2Proof

/-- A word made of four byte lanes has them as its lanes. -/
theorem lanesOfWord_wordOfLanes (b0 b1 b2 b3 : Byte) :
    lanesOfWord (wordOfLanes b0 b1 b2 b3) = [b0, b1, b2, b3] := by
  have hlane0 : (b3 ++ b2 ++ b1 ++ b0 : Word).extractLsb' 0 8 = b0 := by
    rw [BitVec.extractLsb'_append_eq_right]
  have hlane1 : (b3 ++ b2 ++ b1 ++ b0 : Word).extractLsb' 8 8 = b1 := by
    rw [BitVec.extractLsb'_append_eq_of_le (by decide), BitVec.extractLsb'_append_eq_right]
  have hlane2 : (b3 ++ b2 ++ b1 ++ b0 : Word).extractLsb' 16 8 = b2 := by
    iterate 2 rw [BitVec.extractLsb'_append_eq_of_le (by decide)]
    rw [BitVec.extractLsb'_append_eq_right]
  have hlane3 : (b3 ++ b2 ++ b1 ++ b0 : Word).extractLsb' 24 8 = b3 := by
    iterate 3 rw [BitVec.extractLsb'_append_eq_of_le (by decide)]
    rw [BitVec.extractLsb'_eq_self]
  simp [lanesOfWord, wordOfLanes, hlane0, hlane1, hlane2, hlane3]

namespace Machine

/-- Settles O41: the two registers are words of four lanes each, and lane i is round key i. -/
theorem roundKeysReadBack : Obligations.RoundKeysReadBack := by
  have hread03 (f : Fce) : f.memRead 0x20#6 4 = .ok f.rk03Word :=
    f.memRead_reg (r := .rk03) rfl rfl
  have hread47 (f : Fce) : f.memRead 0x24#6 4 = .ok f.rk47Word :=
    f.memRead_reg (r := .rk47) rfl rfl
  refine ⟨fun f => ⟨f.rk03Word, f.rk47Word, hread03 f, hread47 f, rfl, rfl, ?_⟩,
    fun f v => ⟨f.memWrite_reg (r := .rk03) v rfl rfl, f.memWrite_reg (r := .rk47) v rfl rfl⟩,
    hread03 Fce.reset, hread47 Fce.reset⟩
  have hlanes03 : lanesOfWord f.rk03Word = [f.rk.k0, f.rk.k1, f.rk.k2, f.rk.k3] :=
    lanesOfWord_wordOfLanes _ _ _ _
  have hlanes47 : lanesOfWord f.rk47Word = [f.rk.k4, f.rk.k5, f.rk.k6, f.rk.k7] :=
    lanesOfWord_wordOfLanes _ _ _ _
  simp only [lanesOfWord, List.cons.injEq, and_true] at hlanes03 hlanes47
  obtain ⟨hk0, hk1, hk2, hk3⟩ := hlanes03
  exact ⟨hk0, hk1, hk2, hk3, hlanes47⟩

/-- Settles O39: a read of ID is the constant, and the write procedure of ID is the identity. -/
theorem idReadsAsTheConstant : Obligations.IdReadsAsTheConstant := fun f v =>
  ⟨f.memRead_reg (r := .id) rfl rfl, f.memWrite_reg (r := .id) v rfl rfl, rfl, rfl, rfl, rfl⟩

end Machine

end Sys2Proof
end

section
/-! PROOFS. Supported and unsupported accesses of the window (20_memory.md R62), and the answers
that a step gives on the bus (60_exceptions.md R205). -/

namespace Sys2Proof.Machine

theorem supported_iff {off : Offset} {n : Nat} :
    supported off n = true ↔ n = 4 ∧ off.toNat % 4 = 0 := by
  simp [supported]

theorem supported_eq_false_iff {off : Offset} {n : Nat} :
    supported off n = false ↔ ¬ (n = 4 ∧ off.toNat % 4 = 0) := by
  rw [← Bool.not_eq_true, supported_iff]

/-- A supported read is of a register or of a reserved offset, and both are answered with a word. -/
theorem Fce.memRead_supported (f : Fce) {off : Offset} {n : Nat} (h : supported off n = true) :
    ∃ w, f.memRead off n = .ok w := by
  cases hreg : regAt off with
  | some r => exact ⟨_, f.memRead_reg h hreg⟩
  | none => exact ⟨_, f.memRead_reserved h hreg⟩

/-- A supported write is to a register or to a reserved offset, and both are accepted. -/
theorem Fce.memWrite_supported (f : Fce) {off : Offset} {n : Nat} (v : Word)
    (h : supported off n = true) : ∃ g, f.memWrite off n v = .ok g := by
  cases hreg : regAt off with
  | some r => exact ⟨_, f.memWrite_reg v h hreg⟩
  | none => exact ⟨_, f.memWrite_reserved v h hreg⟩

theorem Fce.access_read_of_ok {f : Fce} {off : Offset} {n : Nat} {w : Word}
    (h : f.memRead off n = .ok w) : f.access (.read off n) = (f, .data w) := by
  simp [Fce.access, h]

theorem Fce.access_read_of_error {f : Fce} {off : Offset} {n : Nat} {r : Fault}
    (h : f.memRead off n = .error r) : f.access (.read off n) = (f, .fault r) := by
  simp [Fce.access, h]

theorem Fce.access_write_of_ok {f g : Fce} {off : Offset} {n : Nat} {v : Word}
    (h : f.memWrite off n v = .ok g) : f.access (.write off n v) = (g, .ack) := by
  simp [Fce.access, h]

theorem Fce.access_write_of_error {f : Fce} {off : Offset} {n : Nat} {v : Word} {r : Fault}
    (h : f.memWrite off n v = .error r) : f.access (.write off n v) = (f, .fault r) := by
  simp [Fce.access, h]

/-- Settles O38, from what the two procedures answer and how an access takes their answer. -/
theorem unsupportedAccessIsABusError : Obligations.UnsupportedAccessIsABusError := by
  refine ⟨fun f off n v hbad => ?_, fun f off v haligned => ?_⟩
  · have hread := f.memRead_unsupported (supported_eq_false_iff.2 hbad)
    have hwrite := f.memWrite_unsupported v (supported_eq_false_iff.2 hbad)
    exact ⟨hread, hwrite, Fce.access_read_of_error hread, Fce.access_write_of_error hwrite⟩
  · obtain ⟨w, hread⟩ := f.memRead_supported (supported_iff.2 ⟨rfl, haligned⟩)
    obtain ⟨g, hwrite⟩ := f.memWrite_supported v (supported_iff.2 ⟨rfl, haligned⟩)
    exact ⟨⟨w, hread, Fce.access_read_of_ok hread⟩, g, hwrite, Fce.access_write_of_ok hwrite⟩

theorem Fce.access_supported_ne_fault (f : Fce) {a : Access} (h : a.Supported) (r : Fault) :
    (f.access a).2 ≠ .fault r := by
  cases a with
  | read off n =>
    obtain ⟨w, hread⟩ := f.memRead_supported h
    simp [Fce.access_read_of_ok hread]
  | write off n v =>
    obtain ⟨g, hwrite⟩ := f.memWrite_supported v h
    simp [Fce.access_write_of_ok hwrite]

/-- A turn of the engine does not change the reset input. -/
theorem engineTurn_keeps_inReset {s t : State} (h : engineTurn s = .next t) :
    t.inReset = s.inReset := by
  rcases engineTurn_cases h with ⟨-, hexec⟩ | ⟨-, rfl⟩
  · obtain ⟨-, -, -, -, -, -, hline, -⟩ := everyCommandLeavesTheHostRegistersAlone _ _ _ hexec
    exact hline
  · rfl

/-- A step takes the oldest entry off the agenda and puts nothing on it. -/
theorem step_agenda_eq_tail {s t : State} (h : step s = .next t) : t.agenda = s.agenda.tail := by
  rcases step_cases h with ⟨hagenda, h⟩ | ⟨rest, hagenda, h⟩ | ⟨a, rest, hagenda, rfl⟩ |
    ⟨b, rest, hagenda, rfl⟩
  · obtain ⟨hsame, -⟩ := engineTurn_keeps_agenda_answers h
    rw [hsame, hagenda, List.tail_nil]
  · obtain ⟨hsame, -⟩ := engineTurn_keeps_agenda_answers h
    rw [hsame, hagenda, List.tail_cons]
  · rw [State.serviceAccess_agenda, hagenda, List.tail_cons]
  · rw [State.resetLine_agenda, hagenda, List.tail_cons]

/-- Everything a step can do to the answers and to the reset input, outside reset and with no reset
on the agenda: the input stays released, and at most one access of the agenda is answered, as the
window answers it. -/
theorem step_answers_cases {s t : State} (hreset : s.inReset = false)
    (hnoReset : ∀ b, Event.reset b ∉ s.agenda) (h : step s = .next t) :
    t.inReset = false ∧ (t.answers = s.answers ∨
      ∃ a, Event.access a ∈ s.agenda ∧ t.answers = (s.fce.access a).2 :: s.answers) := by
  rcases step_cases h with ⟨-, h⟩ | ⟨rest, -, h⟩ | ⟨a, rest, hagenda, -⟩ | ⟨b, rest, hagenda, -⟩
  iterate 2
    obtain ⟨-, hsame⟩ := engineTurn_keeps_agenda_answers h
    exact ⟨(engineTurn_keeps_inReset h).trans hreset, .inl hsame⟩
  · rw [step_of_agenda_access hreset hagenda] at h
    cases h
    exact ⟨hreset, .inr ⟨a, by simp [hagenda], rfl⟩⟩
  · exact absurd (by simp [hagenda]) (hnoReset b)

/-- Settles O54: what is left of the agenda was on it before, and the one access a step can answer
is a supported one. -/
theorem supportedAccessesAreNeverFaulted : Obligations.SupportedAccessesAreNeverFaulted := by
  intro s t hreset hnoReset hsupported hnoFault hstep
  have hrest : ∀ e, e ∈ t.agenda → e ∈ s.agenda := fun e he =>
    List.mem_of_mem_tail (step_agenda_eq_tail hstep ▸ he)
  obtain ⟨hreleased, hanswers⟩ := step_answers_cases hreset hnoReset hstep
  refine ⟨hreleased, fun b hb => hnoReset b (hrest _ hb), fun a ha => hsupported a (hrest _ ha), ?_⟩
  intro r
  rcases hanswers with hsame | ⟨a, ha, hanswer⟩
  · rw [hsame]
    exact hnoFault r
  · rw [hanswer, List.mem_cons, not_or]
    exact ⟨(s.fce.access_supported_ne_fault (hsupported a ha) r).symm, hnoFault r⟩

end Sys2Proof.Machine
end

section
/-! PROOFS. The byte order of a block in DIN, KIN and DOUT (20_memory.md R64). -/

namespace Sys2Proof.Machine

theorem toNat_blockOfBytes (a b : Byte) : (blockOfBytes a b).toNat = a.toNat * 256 + b.toNat := by
  rw [blockOfBytes, BitVec.toNat_append, ← Nat.shiftLeft_add_eq_or_of_lt b.isLt, Nat.shiftLeft_eq]

/-- The block of a written word is its bytes at bits [15:8] and [7:0]; the high half is ignored. -/
theorem blockOfWord_eq_blockOfBytes (v : Word) :
    blockOfWord v = blockOfBytes (v.extractLsb' 8 8) (v.extractLsb' 0 8) :=
  (BitVec.extractLsb'_append_extractLsb'_eq_extractLsb' (x := v) (Nat.zero_add 8).symm).symm

theorem extractLsb'_wordOfBlock_high (b : Block) : (wordOfBlock b).extractLsb' 8 8 = byte0 b :=
  BitVec.extractLsb'_setWidth_of_le (by decide)

theorem extractLsb'_wordOfBlock_low (b : Block) : (wordOfBlock b).extractLsb' 0 8 = byte1 b :=
  BitVec.extractLsb'_setWidth_of_le (by decide)

/-- Settles O42: DIN and KIN take the block of the written word, and DOUT reads as the word of its
block. -/
theorem firstByteOfABlockIsTheHighByte : Obligations.FirstByteOfABlockIsTheHighByte := by
  refine ⟨fun a b => ⟨toNat_blockOfBytes a b, byte0_blockOfBytes a b, byte1_blockOfBytes a b⟩,
    ?written, ?read, by decide, by decide⟩
  case written =>
    rintro f a b v rfl rfl
    exact ⟨_, _, f.memWrite_reg (r := .din) v rfl rfl, blockOfWord_eq_blockOfBytes v,
      f.memWrite_reg (r := .kin) v rfl rfl, blockOfWord_eq_blockOfBytes v⟩
  case read =>
    intro f a b hdout
    refine ⟨wordOfBlock f.dout, f.memRead_reg (r := .dout) rfl rfl, ?_, ?_⟩
    · rw [extractLsb'_wordOfBlock_high, hdout, byte0_blockOfBytes]
    · rw [extractLsb'_wordOfBlock_low, hdout, byte1_blockOfBytes]

end Sys2Proof.Machine
end

section
/-! PROOFS. The window at the host's addresses (20_memory.md R61), and what a read and a write do at
each of them (R65, R66). -/

namespace Sys2Proof.Machine

theorem windowOffset_baseAddr_add (k : Nat) {off : Nat} (h : off < 64) :
    windowOffset k (Config.baseAddr k + off) = some (BitVec.ofNat 6 off) := by
  rw [windowOffset_eq_some, BitVec.toNat_ofNat, Nat.mod_eq_of_lt h]

/-- Settles O35: an address that is decoded stands at its distance from BASE_ADDR, which is less
than 64. -/
theorem windowDecodesItsOwnAddresses : Obligations.WindowDecodesItsOwnAddresses := by
  refine fun k addr => ⟨fun ⟨hle, hlt⟩ => ?inside, fun houtside => ?outside⟩
  case inside =>
    obtain ⟨off, rfl⟩ := Nat.exists_eq_add_of_le hle
    have hoff : off < 64 := by omega
    refine ⟨_, windowOffset_baseAddr_add k hoff, ?_⟩
    rw [BitVec.toNat_ofNat, Nat.mod_eq_of_lt hoff, Nat.add_sub_cancel_left]
  case outside =>
    refine Option.eq_none_iff_forall_ne_some.2 fun off hoff => ?_
    have haddr := windowOffset_eq_some.1 hoff
    have hlt := off.isLt
    omega

theorem memReadAt_baseAddr_add (k : Nat) (f : Fce) {off : Nat} (n : Nat) (h : off < 64) :
    memReadAt k f (Config.baseAddr k + off) n = some (f.memRead (BitVec.ofNat 6 off) n) := by
  simp [memReadAt, windowOffset_baseAddr_add k h]

theorem memWriteAt_baseAddr_add (k : Nat) (f : Fce) {off : Nat} (n : Nat) (v : Word)
    (h : off < 64) :
    memWriteAt k f (Config.baseAddr k + off) n v = some (f.memWrite (BitVec.ofNat 6 off) n v) := by
  simp [memWriteAt, windowOffset_baseAddr_add k h]

theorem memReadAt_reg (k : Nat) (f : Fce) (r : Reg) :
    memReadAt k f (Config.baseAddr k + r.offset.toNat) 4 = some (.ok (f.readReg r)) := by
  rw [memReadAt_baseAddr_add k f 4 r.offset.isLt, BitVec.ofNat_toNat, BitVec.setWidth_eq,
    f.memRead_reg (supported_offset r) (regAt_offset r)]

theorem memWriteAt_reg (k : Nat) (f : Fce) (v : Word) (r : Reg) :
    memWriteAt k f (Config.baseAddr k + r.offset.toNat) 4 v = some (.ok (f.writeReg v r)) := by
  rw [memWriteAt_baseAddr_add k f 4 v r.offset.isLt, BitVec.ofNat_toNat, BitVec.setWidth_eq,
    f.memWrite_reg v (supported_offset r) (regAt_offset r)]

/-- The six offsets of the window at which a 32-bit access meets no register (10_state.md R22). -/
def reservedOffsets : List Nat := [0x28, 0x2C, 0x30, 0x34, 0x38, 0x3C]

theorem reservedOffsets_decode : ∀ off ∈ reservedOffsets,
    off < 64 ∧ supported (BitVec.ofNat 6 off) 4 = true ∧ regAt (BitVec.ofNat 6 off) = none := by
  decide

theorem memReadAt_reserved (k : Nat) (f : Fce) {off : Nat} (h : off ∈ reservedOffsets) :
    memReadAt k f (Config.baseAddr k + off) 4 = some (.ok 0x00000000#32) := by
  obtain ⟨hlt, hsupported, hnone⟩ := reservedOffsets_decode off h
  rw [memReadAt_baseAddr_add k f 4 hlt, f.memRead_reserved hsupported hnone]

theorem memWriteAt_reserved (k : Nat) (f : Fce) (v : Word) {off : Nat} (h : off ∈ reservedOffsets) :
    memWriteAt k f (Config.baseAddr k + off) 4 v = some (.ok f) := by
  obtain ⟨hlt, hsupported, hnone⟩ := reservedOffsets_decode off h
  rw [memWriteAt_baseAddr_add k f 4 v hlt, f.memWrite_reserved v hsupported hnone]

/-- The distance of an address from BASE_ADDR decides which accesses are supported there (R62). -/
theorem unsupported_ofNat {off n : Nat} (hlt : off < 64) (hbad : n ≠ 4 ∨ off % 4 ≠ 0) :
    supported (BitVec.ofNat 6 off) n = false := by
  rw [supported_eq_false_iff, BitVec.toNat_ofNat, Nat.mod_eq_of_lt hlt]
  exact not_and_or.2 hbad

/-- Settles O36, register by register, from the one read of a register and of a reserved offset. -/
theorem hostReadReturnsTheRegister : Obligations.HostReadReturnsTheRegister := by
  refine ⟨fun k f => ?_, fun k f off n hlt hbad => ?_, fun f off n => f.access_read off n⟩
  · have hread := memReadAt_reg k f
    exact ⟨hread .id, hread .cmd, hread .status, hread .irqEn, hread .din, hread .kin, hread .dout,
      hread .key, hread .rk03, hread .rk47, fun _ => memReadAt_reserved k f⟩
  · rw [memReadAt_baseAddr_add k f n hlt, f.memRead_unsupported (unsupported_ofNat hlt hbad)]

/-- A write to CMD of an idle FCE is an acceptance (30_encoding.md R103). -/
theorem memWriteAt_cmd_idle (k : Nat) {f : Fce} (v : Word) (h : f.busy = false) :
    memWriteAt k f (Config.baseAddr k + 0x04) 4 v = some (.ok (f.accept v)) := by
  rw [← Fce.issueCommand_idle v h]
  exact memWriteAt_reg k f v .cmd

/-- A write to CMD of a busy FCE is an overrun (30_encoding.md R107). -/
theorem memWriteAt_cmd_busy (k : Nat) {f : Fce} (v : Word) (h : f.busy = true) :
    memWriteAt k f (Config.baseAddr k + 0x04) 4 v = some (.ok f.setOverrun) := by
  rw [← Fce.issueCommand_busy v h]
  exact memWriteAt_reg k f v .cmd

/-- ID, DOUT, KEY, RK0_3 and RK4_7 are read-only. -/
theorem memWriteAt_readOnly (k : Nat) (f : Fce) (v : Word) :
    ∀ off ∈ [0x00, 0x18, 0x1C, 0x20, 0x24],
      memWriteAt k f (Config.baseAddr k + off) 4 v = some (.ok f) := by
  have hwrite := memWriteAt_reg k f v
  simp only [List.forall_mem_cons]
  exact ⟨hwrite .id, hwrite .dout, hwrite .key, hwrite .rk03, hwrite .rk47, nofun⟩

/-- Settles O37, register by register; the offsets at which nothing happens are those of the
read-only registers and the reserved ones. -/
theorem hostWriteChangesTheRegister : Obligations.HostWriteChangesTheRegister := by
  refine ⟨fun k f v => ?_, fun k f v off n hlt hbad => ?_⟩
  · have hwrite := memWriteAt_reg k f v
    exact ⟨memWriteAt_cmd_idle k v, memWriteAt_cmd_busy k v, hwrite .status, hwrite .irqEn,
      hwrite .din, hwrite .kin, List.forall_mem_append.2
        ⟨memWriteAt_readOnly k f v, fun _ => memWriteAt_reserved k f v⟩⟩
  · rw [memWriteAt_baseAddr_add k f n v hlt, f.memWrite_unsupported v (unsupported_ofNat hlt hbad)]

end Sys2Proof.Machine
end

section
/-! PROOFS. The decoder and the encoder of command words (30_encoding.md R90, R91, R93, R95). -/

namespace Sys2Proof

/-- A word is its four byte lanes put together. -/
theorem word_eq_append_lanes (w : Word) :
    w.extractLsb' 24 8 ++ w.extractLsb' 16 8 ++ w.extractLsb' 8 8 ++ w.extractLsb' 0 8 = w := by
  rw [BitVec.extractLsb'_append_extractLsb'_eq_extractLsb' (by decide),
    BitVec.extractLsb'_append_extractLsb'_eq_extractLsb' (by decide),
    BitVec.extractLsb'_append_extractLsb'_eq_extractLsb' (by decide)]
  exact BitVec.extractLsb'_eq_self

/-- The decoder reads the four lanes of a word, and leaves those that follow (R95). -/
theorem decodeLanes_lanesOfWord_append (w : Word) (rest : List Byte) :
    decodeLanes (lanesOfWord w ++ rest) = .ok (decodeWord w, rest) := by
  simp [lanesOfWord, decodeLanes, wordOfLanes, word_eq_append_lanes]

/-- The words of the seven named commands (R91). -/
def legalWords : List Word := [0x0#32, 0x1#32, 0x2#32, 0x3#32, 0x4#32, 0x5#32, 0x6#32]

theorem legalWord_iff_fields {c : Word} :
    legalWord c = true ↔ rsvdField c = 0 ∧ opField c ≤ 6 := by
  simp [legalWord, rsvdField, opField]

theorem toNat_rsvdField (c : Word) : (rsvdField c).toNat = c.toNat / 16 := by
  have hlt := c.isLt
  rw [rsvdField, BitVec.extractLsb'_toNat, Nat.shiftRight_eq_div_pow]
  omega

theorem toNat_opField (c : Word) : (opField c).toNat = c.toNat % 16 := by
  rw [opField, BitVec.extractLsb'_toNat, Nat.shiftRight_zero]

/-- RSVD is 0 and OP at most 6 exactly when the word is at most 6 as a number. -/
theorem legalWord_iff_toNat_le {c : Word} : legalWord c = true ↔ c.toNat ≤ 6 := by
  rw [legalWord_iff_fields, ← BitVec.toNat_inj, BitVec.le_def, toNat_rsvdField, toNat_opField]
  change c.toNat / 16 = 0 ∧ c.toNat % 16 ≤ 6 ↔ c.toNat ≤ 6
  omega

theorem mem_legalWords_iff_toNat_le {c : Word} : c ∈ legalWords ↔ c.toNat ≤ 6 := by
  simp only [legalWords, List.mem_cons, List.not_mem_nil, or_false, ← BitVec.toNat_inj,
    BitVec.toNat_ofNat]
  omega

theorem legalWord_iff_mem_legalWords {c : Word} : legalWord c = true ↔ c ∈ legalWords :=
  legalWord_iff_toNat_le.trans mem_legalWords_iff_toNat_le.symm

/-- The ways of being illegal: a reserved bit that is set, or a reserved opcode (R93). -/
theorem legalWord_eq_false_iff {c : Word} :
    legalWord c = false ↔ rsvdField c ≠ 0 ∨ 7 ≤ (opField c).toNat := by
  rw [← Bool.not_eq_true, legalWord_iff_fields, not_and_or, BitVec.le_def, Nat.not_le]
  rfl

theorem decodeWord_of_illegal {c : Word} (h : legalWord c = false) : decodeWord c = .illegal c := by
  unfold decodeWord
  rcases legalWord_eq_false_iff.1 h with hrsvd | hop
  · rw [if_neg hrsvd]
  · split
    · split
      iterate 7 omega
      rfl
    · rfl

theorem wellFormed_illegal {c : Word} :
    (Instr.illegal c).wellFormed = true ↔ legalWord c = false := by
  simp [Instr.wellFormed]

/-- The seven rows of the opcode map, read from the word to the command and back. -/
theorem decodeWord_legalWords : ∀ c ∈ legalWords,
    (decodeWord c).wellFormed = true ∧ encode (decodeWord c) = c := by
  simp only [legalWords, List.forall_mem_cons]
  exact ⟨⟨rfl, rfl⟩, ⟨rfl, rfl⟩, ⟨rfl, rfl⟩, ⟨rfl, rfl⟩, ⟨rfl, rfl⟩, ⟨rfl, rfl⟩, ⟨rfl, rfl⟩, nofun⟩

/-- A legal word decodes to the named command of its row, an illegal one to the command that
carries it. -/
theorem wellFormed_encode_decodeWord (w : Word) :
    (decodeWord w).wellFormed = true ∧ encode (decodeWord w) = w := by
  cases hlegal : legalWord w with
  | true => exact decodeWord_legalWords w (legalWord_iff_mem_legalWords.1 hlegal)
  | false =>
    rw [decodeWord_of_illegal hlegal]
    exact ⟨wellFormed_illegal.2 hlegal, rfl⟩

theorem decodeWord_encode {i : Instr} (h : i.wellFormed = true) : decodeWord (encode i) = i := by
  cases i with
  | illegal c => exact decodeWord_of_illegal (wellFormed_illegal.1 h)
  | nop | loadKey | deleteKey | encrypt | decrypt | compress | sbox => rfl

/-- Settles O1: the decoder puts the lanes together to the command's word, which decodes to it. -/
theorem decodeOfEncodeGivesTheCommandBack : Obligations.DecodeOfEncodeGivesTheCommandBack := by
  intro i rest h
  rw [encodeLanes, decodeLanes_lanesOfWord_append, decodeWord_encode h]

/-- Settles O2, word by word: a legal word has a row, an illegal one is carried along. -/
theorem everyWordDecodesAndEncodesBack : Obligations.EveryWordDecodesAndEncodesBack :=
  wellFormed_encode_decodeWord

/-- The command that carries a word is well formed only where the word is illegal. -/
theorem legalWord_eq_false_iff_decodeWord {c : Word} :
    legalWord c = false ↔ decodeWord c = .illegal c := by
  refine ⟨decodeWord_of_illegal, fun hdecode => ?_⟩
  obtain ⟨hwf, -⟩ := wellFormed_encode_decodeWord c
  exact wellFormed_illegal.1 (hdecode ▸ hwf)

/-- Settles O4: the two fields, the number and the list of words say the same. -/
theorem exactlySevenWordsAreLegal : Obligations.ExactlySevenWordsAreLegal := fun _ =>
  ⟨legalWord_iff_fields, legalWord_iff_mem_legalWords, legalWord_eq_false_iff_decodeWord⟩

theorem decodeTableWord_eq_decodeWord (nbits w : Nat) :
    decodeTableWord nbits w = some (decodeWord (tableWord nbits w)) := by
  have hlanes := decodeLanes_lanesOfWord_append (tableWord nbits w) []
  rw [List.append_nil] at hlanes
  simp [decodeTableWord, hlanes]

/-- Settles O3, by evaluating the decoder on the eleven words. -/
theorem wordsOfTheOpcodeMapDecode : Obligations.WordsOfTheOpcodeMapDecode := by
  simp only [Obligations.WordsOfTheOpcodeMapDecode, decodeTableWord_eq_decodeWord]
  decide

namespace Machine

/-- Settles O46: the pending command is what the lanes of the pending word decode to. -/
theorem stepRunsThePendingCommand : Obligations.StepRunsThePendingCommand := by
  intro s i hnext hdecode _
  have hlanes := decodeLanes_lanesOfWord_append s.fce.pend.pcmd []
  rw [List.append_nil, hdecode] at hlanes
  obtain rfl : i = s.fce.pendingInstr := by simpa [Fce.pendingInstr] using hlanes
  exact step_of_completesNext hnext

end Machine

end Sys2Proof
end

section
/-! PROOFS. Acceptance and overrun at the offset of CMD (30_encoding.md R103, R104, R107), and the
illegal words (R94). -/

namespace Sys2Proof.Machine

theorem Fce.memWrite_cmd (f : Fce) (v : Word) : f.memWrite 0x04#6 4 v = .ok (f.issueCommand v) :=
  f.memWrite_reg (r := .cmd) v rfl rfl

theorem Fce.memWrite_cmd_idle {f : Fce} (v : Word) (h : f.busy = false) :
    f.memWrite 0x04#6 4 v = .ok (f.accept v) := by
  rw [f.memWrite_cmd, Fce.issueCommand_idle v h]

theorem Fce.memWrite_cmd_busy {f : Fce} (v : Word) (h : f.busy = true) :
    f.memWrite 0x04#6 4 v = .ok f.setOverrun := by
  rw [f.memWrite_cmd, Fce.issueCommand_busy v h]

/-- Settles O32: `accept` and `setOverrun` are the two records, and a running command keeps its
snapshot under every access. -/
theorem commandWriteLatchesTheOperands : Obligations.CommandWriteLatchesTheOperands := by
  refine ⟨fun _ v hidle => Fce.memWrite_cmd_idle v hidle,
    fun _ v hbusy => Fce.memWrite_cmd_busy v hbusy, fun f a hbusy => ?_⟩
  obtain ⟨-, hpend⟩ := Fce.access_keeps_pending a hbusy
  exact hpend

theorem exec_illegal (c : Word) (s : State) :
    exec (.illegal c) s = .next { s with fce := s.fce.raiseStatus .invalidCommand } := rfl

/-- Settles O23: acceptance does not look at the word, and a word that decodes to NOP is the word of
NOP. -/
theorem illegalWordCompletesWithInvalidCommand :
    Obligations.IllegalWordCompletesWithInvalidCommand := by
  refine ⟨exec_illegal, fun c f hillegal hidle =>
    ⟨Fce.memWrite_cmd_idle c hidle, decodeWord_of_illegal hillegal⟩,
    fun c hfields => legalWord_eq_false_iff.2 hfields.symm, fun c hnop => ?_⟩
  obtain ⟨-, hencode⟩ := wellFormed_encode_decodeWord c
  rw [← hencode, hnop]
  rfl

/-- No end of ENCRYPT or DECRYPT reads or writes OVERRUN. -/
theorem cipherCommand_of_overrun_set {o : KeyOrder} {s t : State}
    (h : cipherCommand o s = .next t) :
    cipherCommand o { s with fce := s.fce.setOverrun } =
      .next { t with fce := t.fce.setOverrun } := by
  rw [cipherCommand_next] at h ⊢
  rcases h with ⟨hkey, rfl⟩ | ⟨hkey, rfl⟩
  · exact .inl ⟨hkey, rfl⟩
  · exact .inr ⟨hkey, rfl⟩

/-- Neither end of SBOX reads or writes OVERRUN. -/
theorem execSbox_of_overrun_set {s t : State} (h : execSbox s = .next t) :
    execSbox { s with fce := s.fce.setOverrun } = .next { t with fce := t.fce.setOverrun } := by
  rw [execSbox_next] at h ⊢
  rcases h with ⟨hindex, rfl⟩ | ⟨hindex, rfl⟩
  · exact .inl ⟨hindex, rfl⟩
  · exact .inr ⟨hindex, rfl⟩

/-- An overrun goes through a completion unread and unchanged (R107). -/
theorem exec_of_overrun_set {i : Instr} {s t : State} (h : exec i s = .next t) :
    exec i { s with fce := s.fce.setOverrun } = .next { t with fce := t.fce.setOverrun } := by
  cases i with
  | encrypt => exact cipherCommand_of_overrun_set (o := .forward) h
  | decrypt => exact cipherCommand_of_overrun_set (o := .reverse) h
  | sbox => exact execSbox_of_overrun_set h
  | nop | loadKey | deleteKey | compress | illegal _ => cases h; rfl

/-- Settles O33: the dropped word sets OVERRUN, which no completion looks at. -/
theorem commandWriteWhileBusyIsDropped : Obligations.CommandWriteWhileBusyIsDropped :=
  ⟨fun _ v hbusy => Fce.memWrite_cmd_busy v hbusy, fun _ _ _ hexec => exec_of_overrun_set hexec⟩

end Sys2Proof.Machine
end

section
/-! PROOFS. The row of each command: the registers it writes, the operands that decide what it writes
there (30_encoding.md R91), and the reads of the window that it leaves as they were. -/

namespace Sys2Proof.Machine

theorem exec_keeps_cipherState {i : Instr} {s t : State} (h : exec i s = .next t)
    (hi : i ∉ [Instr.loadKey, .deleteKey, .compress]) : t.fce.SameCipherState s.fce := by
  rcases exec_cipherState_cases h with ⟨rfl | rfl, -⟩ | ⟨rfl, -⟩ | hsame
  iterate 3 exact absurd (by decide) hi
  exact hsame

/-- Everything ENCRYPT and DECRYPT can do to DOUT: an error path keeps it. -/
theorem cipherCommand_dout {o : KeyOrder} {s t : State} (h : cipherCommand o s = .next t) :
    t.fce.dout = if s.fce.keyValid then cipher o s.fce.rk s.fce.pend.pdin else s.fce.dout := by
  rcases (cipherCommand_next o s t).1 h with ⟨hkey, rfl⟩ | ⟨hkey, rfl⟩ <;>
    simp [hkey, Fce.opDin]

/-- Everything SBOX can do to DOUT: an error path keeps it. -/
theorem execSbox_dout {s t : State} (h : execSbox s = .next t) :
    t.fce.dout = if indexHigh s.fce.pend.pdin = 0 then
      (sboxLookup (indexLow s.fce.pend.pdin)).setWidth 16 else s.fce.dout := by
  rcases (execSbox_next s t).1 h with ⟨hindex, rfl⟩ | ⟨hindex, rfl⟩ <;>
    simp_all [Fce.opDin]

theorem exec_keeps_dout {i : Instr} {s t : State} (h : exec i s = .next t)
    (hi : i ∉ [Instr.encrypt, .decrypt, .compress, .sbox]) : t.fce.dout = s.fce.dout := by
  cases i with
  | nop | loadKey | deleteKey | illegal _ => cases h; rfl
  | encrypt | decrypt | compress | sbox => exact absurd (by decide) hi

/-- Settles O24, from what each command's end does to the cipher state and to DOUT. -/
theorem commandsReadAndWriteTheirRowOnly : Obligations.CommandsReadAndWriteTheirRowOnly := by
  refine ⟨rfl, ?frame, ?loadKey, ?deleteKey, ?cipher, ?compress, ?sbox⟩
  case frame =>
    intro i s t h
    obtain ⟨hdin, hkin, hlast, hie, hoverrun, -⟩ :=
      everyCommandLeavesTheHostRegistersAlone i s t h
    exact ⟨exec_keeps_cipherState h, exec_keeps_dout h, hdin, hkin, hlast, hie, hoverrun⟩
  case loadKey =>
    intro s s' t t' hkin h h'
    cases h
    cases h'
    simp [Fce.opKin, hkin]
  case deleteKey =>
    intro s s' t t' h h'
    cases h
    cases h'
    simp
  case cipher =>
    intro i s s' t t' hi hdin hrk hkey hdout h h'
    have hsame {o : KeyOrder} (h : cipherCommand o s = .next t)
        (h' : cipherCommand o s' = .next t') : t.fce.dout = t'.fce.dout := by
      rw [cipherCommand_dout h, cipherCommand_dout h', hdin, hrk, hkey, hdout]
    rcases hi with rfl | rfl
    · exact hsame (o := .forward) h h'
    · exact hsame (o := .reverse) h h'
  case compress =>
    intro s s' t t' hdin hkin h h'
    cases h
    cases h'
    simp [Fce.opDin, Fce.opKin, hdin, hkin]
  case sbox =>
    intro s s' t t' hdin hdout h h'
    rw [execSbox_dout h, execSbox_dout h', hdin, hdout]

/-- A read sees one register at most. -/
theorem Fce.memRead_congr {f g : Fce} {off : Offset} (n : Nat)
    (h : ∀ r : Reg, r.offset = off → f.readReg r = g.readReg r) :
    f.memRead off n = g.memRead off n := by
  cases hs : supported off n with
  | false => rw [f.memRead_unsupported hs, g.memRead_unsupported hs]
  | true =>
    cases hr : regAt off with
    | none => rw [f.memRead_reserved hs hr, g.memRead_reserved hs hr]
    | some r => rw [f.memRead_reg hs hr, g.memRead_reg hs hr, h r (offset_of_regAt hr).symm]

theorem status_mem_writtenOffsets (i : Instr) : Reg.status.offset ∈ writtenOffsets i := by
  cases i <;> simp [writtenOffsets, Reg.offset]

/-- The commands that write KEY, RK and KEY_VALID have KEY, RK0_3 and RK4_7 among their offsets. -/
theorem cipherState_mem_writtenOffsets {i : Instr}
    (hi : i ∈ [Instr.loadKey, .deleteKey, .compress]) :
    ∀ r ∈ [Reg.key, .rk03, .rk47], r.offset ∈ writtenOffsets i := by
  revert i
  decide

/-- The commands that write DOUT have it among their offsets. -/
theorem dout_mem_writtenOffsets {i : Instr}
    (hi : i ∈ [Instr.encrypt, .decrypt, .compress, .sbox]) :
    Reg.dout.offset ∈ writtenOffsets i := by
  revert i
  decide

/-- A completion changes the reading of no register but STATUS and those of its command's row. -/
theorem exec_keeps_readReg {i : Instr} {s t : State} (h : exec i s = .next t) {r : Reg}
    (hr : r.offset ∉ writtenOffsets i) : t.fce.readReg r = s.fce.readReg r := by
  obtain ⟨hdin, hkin, hlast, hie, -⟩ := everyCommandLeavesTheHostRegistersAlone i s t h
  have hcipher (hmem : r ∈ [Reg.key, .rk03, .rk47]) : t.fce.SameCipherState s.fce :=
    exec_keeps_cipherState h fun hi => hr (cipherState_mem_writtenOffsets hi r hmem)
  cases r with
  | id => rfl
  | cmd => exact hlast
  | status => exact absurd (status_mem_writtenOffsets i) hr
  | irqEn => simp only [Fce.readReg, hie]
  | din => simp only [Fce.readReg, hdin]
  | kin => simp only [Fce.readReg, hkin]
  | dout =>
    simp only [Fce.readReg, exec_keeps_dout h fun hi => hr (dout_mem_writtenOffsets hi)]
  | key =>
    obtain ⟨hkey, -, -⟩ := hcipher (by decide)
    simp only [Fce.readReg, hkey]
  | rk03 =>
    obtain ⟨-, hrk, -⟩ := hcipher (by decide)
    simp only [Fce.readReg, Fce.rk03Word, hrk]
  | rk47 =>
    obtain ⟨-, hrk, -⟩ := hcipher (by decide)
    simp only [Fce.readReg, Fce.rk47Word, hrk]

/-- Settles O26: a read sees one register at most, and that register reads as before. -/
theorem everyOtherWindowReadIsUnchanged : Obligations.EveryOtherWindowReadIsUnchanged := by
  intro i s t off n h hoff
  refine Fce.memRead_congr n fun r hr => exec_keeps_readReg h ?_
  rwa [hr]

/-- The two ends of a command in STATUS (R106). -/
theorem exec_err_cases {i : Instr} {s t : State} (h : exec i s = .next t) :
    (t.fce.err = false ∧ t.fce.errCode = 0x0#4 ∧ t.fce.errAny = s.fce.errAny) ∨
    ∃ e : ErrorKind, t.fce.err = true ∧ t.fce.errCode = e.code ∧ t.fce.errAny = true := by
  rcases exec_writes_only h with ⟨_, _, _, _, rfl⟩ | ⟨e, rfl⟩
  · exact .inl ⟨rfl, rfl, rfl⟩
  · exact .inr ⟨e, rfl, rfl, rfl⟩

/-- Where the engine moves next, the step ends the command, with DONE set. -/
theorem step_done_of_completesNext {s : State} (h : s.CompletesNext) :
    ∃ t, step s = .next t ∧ t.fce.done = true := by
  obtain ⟨t, hexec⟩ := exec_total s.fce.pendingInstr { s with agenda := s.agenda.tail }
  obtain ⟨-, hdone⟩ := exec_busy_done hexec
  exact ⟨t, (step_of_completesNext h).trans hexec, hdone⟩

/-- An access to a busy FCE and the engine's turn after it: DONE is set at the end, whatever the
access wrote. -/
theorem run_access_engine_done {s : State} {a : Access} {rest : List Event}
    (henabled : s.engineEnabled = true) (hagenda : s.agenda = .access a :: .engine :: rest) :
    ∃ t, Sys2Proof.core.run 2 s = .next t ∧ t.fce.done = true := by
  obtain ⟨hbusy, hreset⟩ := State.engineEnabled_iff.1 henabled
  obtain ⟨hbusy', -⟩ := Fce.access_keeps_pending a hbusy
  obtain ⟨t, hcompletion, hdone⟩ := step_done_of_completesNext (s := { s with
      fce := (s.fce.access a).1, agenda := .engine :: rest,
      answers := (s.fce.access a).2 :: s.answers })
    ⟨State.engineEnabled_iff.2 ⟨hbusy', hreset⟩, .inr rfl⟩
  have haccess := step_of_agenda_access hreset hagenda
  exact ⟨t, (run_succ_of_step 1 haccess).trans (run_succ_of_step 0 hcompletion), hdone⟩

/-- Settles O31; that the write of DONE is no exception is the case of a STATUS write. -/
theorem completionSetsStatus : Obligations.CompletionSetsStatus := by
  refine ⟨fun i s t h => ?_, fun _ _ _ henabled hagenda => run_access_engine_done henabled hagenda⟩
  obtain ⟨hbusy, hdone⟩ := exec_busy_done h
  exact ⟨hbusy, hdone, exec_err_cases h⟩

end Sys2Proof.Machine
end

section
/-! PROOFS. WR and RD, the statements of a host program that touch the FCE (30_encoding.md R96). -/

namespace Sys2Proof.Machine

theorem State.serviceAccess_outside_reset {s : State} (a : Access) (h : s.inReset = false) :
    s.serviceAccess a =
      { s with fce := (s.fce.access a).1, answers := (s.fce.access a).2 :: s.answers } := by
  simp [State.serviceAccess, h]

theorem State.serviceAccess_write_of_ok {s : State} {off : Offset} {n : Nat} {v : Word} {g : Fce}
    (h : s.inReset = false) (hwrite : s.fce.memWrite off n v = .ok g) :
    s.serviceAccess (.write off n v) = { s with fce := g, answers := .ack :: s.answers } := by
  rw [State.serviceAccess_outside_reset _ h, Fce.access_write_of_ok hwrite]

theorem State.serviceAccess_read_of_ok {s : State} {off : Offset} {n : Nat} {v : Word}
    (h : s.inReset = false) (hread : s.fce.memRead off n = .ok v) :
    s.serviceAccess (.read off n) = { s with answers := .data v :: s.answers } := by
  rw [State.serviceAccess_outside_reset _ h, Fce.access_read_of_ok hread]

/-- Settles O58: at the offset of a register both accesses are supported, so the FCE answers them
without a fault. -/
theorem hostStatementsAreBusAccesses : Obligations.HostStatementsAreBusAccesses := by
  refine ⟨fun x r e hstmt houtside => ?write, fun x h r hstmt houtside => ?read⟩
  case write =>
    obtain ⟨g, hwrite⟩ := x.dev.fce.memWrite_supported (e.eval x.vars) (supported_offset r)
    refine ⟨g, hwrite, ?_⟩
    simp [Session.hostMove, hstmt, State.serviceAccess_write_of_ok houtside hwrite]
  case read =>
    obtain ⟨v, hread⟩ := x.dev.fce.memRead_supported (supported_offset r)
    refine ⟨v, hread, ?_⟩
    simp [Session.hostMove, hstmt, State.serviceAccess_read_of_ok houtside hread]

end Sys2Proof.Machine
end

section
/-! PROOFS. The S-box, a table of sixteen nibbles (40_sbox.md R120), and SUB8, which looks each lane
of a byte up in it (R122). -/

namespace Sys2Proof.Machine

/-- Settles O6, by reading the table's entries. -/
theorem sboxIsTheTable : Obligations.SboxIsTheTable :=
  ⟨rfl, rfl, rfl, rfl, rfl, rfl, rfl, rfl, rfl, rfl, rfl, rfl, rfl, rfl, rfl, rfl⟩

/-- No entry stands twice in the table. -/
theorem sboxLookup_injective : Function.Injective sboxLookup := by
  unfold Function.Injective
  decide

theorem extractLsb'_sub8_high (y : Byte) :
    (sub8 y).extractLsb' 4 4 = sboxLookup (y.extractLsb' 4 4) :=
  BitVec.extractLsb'_append_eq_left

theorem extractLsb'_sub8_low (y : Byte) :
    (sub8 y).extractLsb' 0 4 = sboxLookup (y.extractLsb' 0 4) :=
  BitVec.extractLsb'_append_eq_right

/-- A byte is its two nibbles in order. -/
theorem append_nibbles (y : Byte) : y.extractLsb' 4 4 ++ y.extractLsb' 0 4 = y := by
  rw [BitVec.extractLsb'_append_extractLsb'_eq_extractLsb' (by decide), BitVec.extractLsb'_eq_self]

/-- Each lane of the result gives the lane of the argument back. -/
theorem sub8_injective : Function.Injective sub8 := by
  intro y z h
  have hhigh : y.extractLsb' 4 4 = z.extractLsb' 4 4 :=
    sboxLookup_injective (by rw [← extractLsb'_sub8_high, ← extractLsb'_sub8_high, h])
  have hlow : y.extractLsb' 0 4 = z.extractLsb' 0 4 :=
    sboxLookup_injective (by rw [← extractLsb'_sub8_low, ← extractLsb'_sub8_low, h])
  rw [← append_nibbles y, ← append_nibbles z, hhigh, hlow]

/-- Settles O8; that SUB8 is a bijection follows lane by lane from the table, which has no entry
twice. -/
theorem byteSubstitutionActsOnEachNibble : Obligations.ByteSubstitutionActsOnEachNibble :=
  ⟨fun y => ⟨extractLsb'_sub8_high y, extractLsb'_sub8_low y⟩,
    Finite.injective_iff_bijective.1 sub8_injective, rfl, rfl, rfl, rfl⟩

end Sys2Proof.Machine
end

section
/-! PROOFS. The completion of SBOX (40_sbox.md R125), with an index in range and out of it. -/

namespace Sys2Proof.Machine

theorem exec_sbox_of_index_in_range {s : State} (h : indexHigh s.fce.pend.pdin = 0) :
    exec .sbox s = .next { s with fce :=
      (s.fce.setDout ((sboxLookup (indexLow s.fce.pend.pdin)).setWidth 16)).completeStatus } :=
  (execSbox_next s _).2 (.inl ⟨h, rfl⟩)

theorem exec_sbox_of_index_out_of_range {s : State} (h : indexHigh s.fce.pend.pdin ≠ 0) :
    exec .sbox s = .next { s with fce := s.fce.raiseStatus .invalidInput } :=
  (execSbox_next s _).2 (.inr ⟨h, rfl⟩)

/-- What SBOX leaves in ERRCODE and DOUT when it refuses the index (R125). -/
theorem exec_sbox_errCode_dout {s t : State} (h : exec .sbox s = .next t)
    (hindex : indexHigh s.fce.pend.pdin ≠ 0) :
    t.fce.errCode = 0x3#4 ∧ t.fce.dout = s.fce.dout := by
  rw [exec_sbox_of_index_out_of_range hindex] at h
  cases h
  exact ⟨rfl, rfl⟩

/-- SBOX accepted with an index in range, from the write of its word to its completion. -/
theorem run_sbox_of_index_in_range {s : State} (h : s.Issues 0x00000006#32)
    (hindex : indexHigh s.fce.din = 0) :
    Sys2Proof.core.run 2 s = .next { s.issued 0x00000006#32 with fce :=
      ((s.fce.accept 0x00000006#32).setDout
        ((sboxLookup (indexLow s.fce.din)).setWidth 16)).completeStatus } :=
  run_of_issues h (exec_sbox_of_index_in_range (s := s.issued 0x00000006#32) hindex)

/-- Settles O22: the two ends are the two records, the smallest index out of range is 0x0010, and
the example is an accepted SBOX with an index in range. -/
theorem sboxLooksUpTheTable : Obligations.SboxLooksUpTheTable := by
  refine ⟨fun _ => exec_sbox_of_index_in_range, fun _ => exec_sbox_of_index_out_of_range, rfl,
    rfl, fun _ _ h => ⟨fun hdin => ?first, fun hdin => ?last, fun hdin => ?outOfRange⟩,
    fun _ hissues hdin hkey herrAny hoverrun => ?worked⟩
  case first | last =>
    rw [execSbox_dout h, hdin]
    rfl
  case outOfRange =>
    refine exec_sbox_errCode_dout h ?_
    rcases hdin with hdin | hdin <;> rw [hdin] <;> decide
  case worked =>
    refine ⟨_, run_sbox_of_index_in_range hissues (by rw [hdin]; rfl), ?_, ?_⟩
    · simp only [Fce.completeStatus_dout, Fce.setDout_dout, hdin]
      rfl
    · simp [Fce.statusWord, hkey, herrAny, hoverrun]

end Sys2Proof.Machine
end

section
/-! PROOFS. The key schedule: rotation, the recurrence and the two bytes of the key respect XOR, and
the first two round keys are the key (41_key_schedule.md R136 to R138). -/

namespace Sys2Proof.Machine

/-- Bit `i` comes from bit `(i + (8 - n)) mod 8`. -/
theorem getLsbD_rotl8_source (b : Byte) {n i : Nat} (hn : n ≤ 8) (hi : i < 8) :
    (rotl8 b n).getLsbD i = b.getLsbD ((i + (8 - n)) % 8) := by
  have hround : ((i + (8 - n)) % 8 + n) % 8 = i := by omega
  rw [← getLsbD_rotl8 b hn (Nat.mod_lt _ (by decide)), hround]

theorem rotl8_xor (a b : Byte) {n : Nat} (hn : n ≤ 8) :
    rotl8 (a ^^^ b) n = rotl8 a n ^^^ rotl8 b n := by
  refine BitVec.eq_of_getLsbD_eq fun i hi => ?_
  simp only [BitVec.getLsbD_xor, getLsbD_rotl8_source _ hn hi]

/-- XOR goes through one step of the recurrence. -/
theorem nextRoundKey_xor (p q p' q' : Byte) :
    nextRoundKey (p ^^^ q) (p' ^^^ q') = nextRoundKey p p' ^^^ nextRoundKey q q' := by
  have h3 := rotl8_xor p q (n := 3) (by decide)
  have h5 := rotl8_xor p' q' (n := 5) (by decide)
  simp only [nextRoundKey, h3, h5]
  ac_rfl

theorem byte0_xor (a b : Block) : byte0 (a ^^^ b) = byte0 a ^^^ byte0 b := BitVec.extractLsb'_xor

theorem byte1_xor (a b : Block) : byte1 (a ^^^ b) = byte1 a ^^^ byte1 b := BitVec.extractLsb'_xor

/-- A block is its two bytes in order (R6). -/
theorem blockOfBytes_byte0_byte1 (b : Block) : blockOfBytes (byte0 b) (byte1 b) = b := by
  rw [blockOfBytes, byte0, byte1, BitVec.extractLsb'_append_extractLsb'_eq_extractLsb' (by decide),
    BitVec.extractLsb'_eq_self]

theorem keySchedule_xor (a b : Block) : (keySchedule (a ^^^ b)).toList =
    List.zipWith (fun x y : Byte => x ^^^ y) (keySchedule a).toList (keySchedule b).toList := by
  simp only [keySchedule, RoundKeys.toList, byte0_xor, byte1_xor, nextRoundKey_xor,
    List.zipWith_cons_cons, List.zipWith_nil_left]

/-- K[0] and K[1] are the key's own bytes. -/
theorem keySchedule_injective : Function.Injective keySchedule := by
  intro a b h
  have hlow : byte1 a = byte1 b := congrArg RoundKeys.k0 h
  have hhigh : byte0 a = byte0 b := congrArg RoundKeys.k1 h
  rw [← blockOfBytes_byte0_byte1 a, ← blockOfBytes_byte0_byte1 b, hhigh, hlow]

theorem keySchedule_zero : keySchedule 0x0000#16 = RoundKeys.zero := rfl

/-- Settles O10: linear because rotation and the recurrence are, and injective because the first two
round keys give the key back. -/
theorem keyScheduleIsLinearAndInjective : Obligations.KeyScheduleIsLinearAndInjective :=
  ⟨keySchedule_xor, RoundKeys.toList_eq_replicate_zero_iff.2 keySchedule_zero,
    keySchedule_injective, rfl⟩

/-- Each round key from K[2] on comes from the two before it. -/
theorem keySchedule_recurrence (key : Block) {i : Nat} (hlow : 2 ≤ i) (hhigh : i ≤ 7) :
    ∃ a b c : Byte, (keySchedule key).toList[i]? = some a ∧
      (keySchedule key).toList[i - 1]? = some b ∧ (keySchedule key).toList[i - 2]? = some c ∧
      a = nextRoundKey b c := by
  match i, hlow, hhigh with
  | 2, _, _ | 3, _, _ | 4, _, _ | 5, _, _ | 6, _, _ | 7, _, _ => exact ⟨_, _, _, rfl, rfl, rfl, rfl⟩

/-- Settles O9, entry by entry. -/
theorem keyScheduleFollowsTheRecurrence : Obligations.KeyScheduleFollowsTheRecurrence :=
  ⟨fun key => ⟨rfl, rfl, fun _ hlow hhigh => keySchedule_recurrence key hlow hhigh⟩, rfl, rfl⟩

end Sys2Proof.Machine
end

section
/-! PROOFS. The completions of LOAD_KEY (41_key_schedule.md R140) and DELETE_KEY (R145). -/

namespace Sys2Proof.Machine

theorem exec_loadKey (s : State) : exec .loadKey s =
    .next { s with fce := (s.fce.loadCipherState s.fce.pend.pkin).completeStatus } := rfl

theorem exec_deleteKey (s : State) : exec .deleteKey s =
    .next { s with fce := s.fce.clearCipherState.completeStatus } := rfl

/-- The round-key registers as R138 reads them after a load of 0xB0B1. -/
theorem Fce.rkWords_of_B0B1 {f : Fce} (h : f.rk = keySchedule 0xB0B1#16) :
    f.rk03Word = 0x8BB3B0B1#32 ∧ f.rk47Word = 0x2644202A#32 := by
  rw [Fce.rk03Word, Fce.rk47Word, h]
  exact ⟨rfl, rfl⟩

/-- The round-key registers read as zero after a delete. -/
theorem Fce.rkWords_of_zero {f : Fce} (h : f.rk = RoundKeys.zero) :
    f.rk03Word = 0x00000000#32 ∧ f.rk47Word = 0x00000000#32 := by
  rw [Fce.rk03Word, Fce.rk47Word, h]
  exact ⟨rfl, rfl⟩

/-- Settles O11: the rows are computed, and the load leaves their round keys in RK. -/
theorem workedKeyScheduleOfB0B1 : Obligations.WorkedKeyScheduleOfB0B1 := by
  refine ⟨⟨rfl, rfl, rfl⟩, ⟨rfl, rfl, rfl⟩, ⟨rfl, rfl, rfl⟩, ⟨rfl, rfl, rfl⟩, ⟨rfl, rfl, rfl⟩,
    ⟨rfl, rfl, rfl⟩, rfl, fun s hkin => ⟨_, exec_loadKey s, ?_⟩⟩
  obtain ⟨h03, h47⟩ := Fce.rkWords_of_B0B1
    (f := (s.fce.loadCipherState s.fce.pend.pkin).completeStatus) (by simp [hkin])
  rw [Fce.memRead_reg (r := .rk03) _ rfl rfl, Fce.memRead_reg (r := .rk47) _ rfl rfl]
  exact ⟨congrArg _ h03, congrArg _ h47⟩

/-- A load of the loaded key puts KEY, RK and KEY_VALID where they are. -/
theorem Fce.CipherInv.loadCipherState_key {f : Fce} (hinv : f.CipherInv) (h : f.keyValid = true) :
    (f.loadCipherState f.key).SameCipherState f :=
  ⟨rfl, (hinv.1 h).symm, h.symm⟩

/-- A delete with no key loaded puts KEY, RK and KEY_VALID where they are. -/
theorem Fce.CipherInv.clearCipherState_unloaded {f : Fce} (hinv : f.CipherInv)
    (h : f.keyValid = false) : f.clearCipherState.SameCipherState f := by
  obtain ⟨hkey, hrk⟩ := hinv.2 h
  exact ⟨hkey.symm, hrk.symm, h.symm⟩

/-- LOAD_KEY from the write of its word to its completion: KIN is the operand. -/
theorem run_loadKey {s : State} (h : s.Issues 0x00000001#32) : Sys2Proof.core.run 2 s =
    .next { s.issued 0x00000001#32 with
      fce := ((s.fce.accept 0x00000001#32).loadCipherState s.fce.kin).completeStatus } :=
  run_of_issues h (exec_loadKey _)

/-- DELETE_KEY from the write of its word to its completion. -/
theorem run_deleteKey {s : State} (h : s.Issues 0x00000002#32) : Sys2Proof.core.run 2 s =
    .next { s.issued 0x00000002#32 with
      fce := (s.fce.accept 0x00000002#32).clearCipherState.completeStatus } :=
  run_of_issues h (exec_deleteKey _)

/-- STATUS after a completion without error, with ERR_ANY and OVERRUN clear: DONE and KEY_VALID. -/
theorem Fce.statusWord_completeStatus {f : Fce} (herrAny : f.errAny = false)
    (hoverrun : f.overrun = false) :
    f.completeStatus.statusWord = if f.keyValid then 0x00000102#32 else 0x00000002#32 := by
  cases hvalid : f.keyValid <;> simp [Fce.statusWord, hvalid, herrAny, hoverrun]

/-- Settles O17: the completion is the load of the operand, of which the corner cases speak. -/
theorem loadKeyStoresKeyAndRoundKeys : Obligations.LoadKeyStoresKeyAndRoundKeys := by
  refine ⟨exec_loadKey, rfl, rfl, fun s t hinv hvalid hkey h => ?reload, keySchedule_zero,
    fun s hissues hkin herrAny hoverrun => ?worked⟩
  case reload =>
    rw [exec_loadKey, ← hkey] at h
    cases h
    exact hinv.loadCipherState_key hvalid
  case worked =>
    obtain ⟨h03, h47⟩ := Fce.rkWords_of_B0B1
      (f := ((s.fce.accept 0x00000001#32).loadCipherState s.fce.kin).completeStatus) (by simp [hkin])
    exact ⟨_, run_loadKey hissues, hkin, h03, h47,
      Fce.statusWord_completeStatus herrAny hoverrun⟩

/-- Without a key ENCRYPT and DECRYPT raise NO_KEY_LOADED (R160, R165). -/
theorem exec_cipher_without_key {i : Instr} {s : State} (hi : i = .encrypt ∨ i = .decrypt)
    (h : s.fce.keyValid = false) :
    exec i s = .next { s with fce := s.fce.raiseStatus .noKeyLoaded } := by
  rcases hi with rfl | rfl
  · exact (cipherCommand_next .forward s _).2 (.inr ⟨h, rfl⟩)
  · exact (cipherCommand_next .reverse s _).2 (.inr ⟨h, rfl⟩)

/-- Settles O18: the completion is the clearing of the cipher state, of which the corner cases
speak. -/
theorem deleteKeyClearsTheCipherState : Obligations.DeleteKeyClearsTheCipherState := by
  refine ⟨exec_deleteKey, rfl, rfl, fun s t hinv hvalid h => ?unloaded,
    fun s t u i hi h hu => ?noKey, fun s hissues herrAny hoverrun => ?worked⟩
  case unloaded =>
    rw [exec_deleteKey] at h
    cases h
    exact hinv.clearCipherState_unloaded hvalid
  case noKey =>
    rw [exec_deleteKey] at h
    cases h
    exact exec_cipher_without_key hi hu
  case worked =>
    obtain ⟨h03, h47⟩ := Fce.rkWords_of_zero
      (f := (s.fce.accept 0x00000002#32).clearCipherState.completeStatus) (by simp)
    exact ⟨_, run_deleteKey hissues, rfl, h03, h47,
      Fce.statusWord_completeStatus herrAny hoverrun⟩

end Sys2Proof.Machine
end

section
/-! PROOFS. The round function (42_feistel.md R155, R156). -/

namespace Sys2Proof.Machine

/-- Settles O12: the composition is the definition, and the example is computed. -/
theorem roundFunctionIsXorSubstituteRotate : Obligations.RoundFunctionIsXorSubstituteRotate :=
  ⟨fun _ _ => rfl, rfl, rfl, rfl, rfl⟩

theorem rotl8_injective {n : Nat} (hn : n ≤ 8) : Function.Injective (rotl8 · n) :=
  Function.LeftInverse.injective (g := (rotl8 · (8 - n))) fun b => rotl8_rotl8_rest b hn

/-- XOR with the round key, SUB8 and the rotation each keep two halves apart. -/
theorem roundFunction_injective (k : Byte) : Function.Injective (roundFunction · k) := by
  intro r r' h
  have hsub : sub8 (r ^^^ k) = sub8 (r' ^^^ k) := rotl8_injective (n := 2) (by decide) h
  exact (BitVec.xor_left_inj k).1 (sub8_injective hsub)

/-- Settles O13: on the finitely many bytes an injection is a bijection. -/
theorem roundFunctionIsABijectionForEachKey : Obligations.RoundFunctionIsABijectionForEachKey :=
  fun k => Finite.injective_iff_bijective.1 (roundFunction_injective k)

end Sys2Proof.Machine
end

section
/-! PROOFS. The eight rounds (42_feistel.md R157), in either key order (R158), and that
the rounds in the reverse order undo the rounds (R159). -/

namespace Sys2Proof.Machine

/-- The halves (L[i], R[i]) after the first `i` rounds (R157). -/
def halvesAfter (b : Block) (k : RoundKeys) (i : Nat) : Byte × Byte :=
  (k.toList.take i).foldl feistelRound (byte0 b, byte1 b)

theorem halvesAfter_succ (b : Block) {k : RoundKeys} {i : Nat} {ki : Byte}
    (h : k.toList[i]? = some ki) :
    halvesAfter b k (i + 1) = feistelRound (halvesAfter b k i) ki := by
  simp [halvesAfter, List.take_add_one, h]

/-- The output is R[8] ++ L[8]. -/
theorem rounds8_eq_halvesAfter (b : Block) (k : RoundKeys) :
    rounds8 b k = blockOfBytes (halvesAfter b k 8).2 (halvesAfter b k 8).1 := rfl

/-- Settles O14, with the halves after each round as the witness. -/
theorem eightRoundsThenSecondHalfFirst : Obligations.EightRoundsThenSecondHalfFirst := by
  refine ⟨fun b k => ⟨fun i => (halvesAfter b k i).1, fun i => (halvesAfter b k i).2, rfl, rfl,
    fun i ki hki => ?round, ?high, ?low⟩, fun _ _ => ⟨rfl, rfl⟩⟩
  case round => exact Prod.ext_iff.1 (halvesAfter_succ b hki)
  case high => exact byte0_blockOfBytes _ _
  case low => exact byte1_blockOfBytes _ _

/-- Rounds are undone by the same rounds in the reverse order, on the exchanged halves. -/
theorem foldl_feistelRound_reverse (ks : List Byte) (h : Byte × Byte) :
    ks.reverse.foldl feistelRound (ks.foldl feistelRound h).swap = h.swap := by
  induction ks generalizing h with
  | nil => rfl
  | cons k ks ih =>
    simp only [List.reverse_cons, List.foldl_append, List.foldl_cons, List.foldl_nil, ih,
      feistelRound_undo]

/-- The output R[8] ++ L[8] has the halves already exchanged, so the routine undoes itself. -/
theorem rounds8_reversed_rounds8 (k : RoundKeys) (b : Block) :
    rounds8 (rounds8 b k) k.reversed = b := by
  have hundo := foldl_feistelRound_reverse k.toList (byte0 b, byte1 b)
  simp only [rounds8, byte0_blockOfBytes, byte1_blockOfBytes, RoundKeys.toList_reversed]
  rw [← Prod.swap, hundo]
  exact blockOfBytes_bytes b

theorem dec_enc (k : RoundKeys) (b : Block) : dec k (enc k b) = b := rounds8_reversed_rounds8 k b

theorem enc_dec (k : RoundKeys) (b : Block) : enc k (dec k b) = b :=
  rounds8_reversed_rounds8 k.reversed b

/-- DEC is ENC with the round keys in the reverse order. -/
theorem dec_eq_enc_reversed (k : RoundKeys) (b : Block) : dec k b = enc k.reversed b := rfl

theorem dec_eq_enc_of_mirrored {k : RoundKeys} (h : k.reversed = k) (b : Block) :
    dec k b = enc k b := by
  rw [dec_eq_enc_reversed, h]

end Sys2Proof.Machine
end

section
/-! PROOFS. The keys whose round-key set is its own mirror (42_feistel.md R159). The two middle
pairs decide: K[2] = K[5] and K[3] = K[4] make K[3] invariant under rotation, hence 0x00 or 0xFF, and
the recurrence run backwards from there gives the two bytes of the key. -/

namespace Sys2Proof.Machine

theorem rotl8_rotl8 (b : Byte) {m n : Nat} (hm : m ≤ 8) (hn : n ≤ 8) :
    rotl8 (rotl8 b m) n = rotl8 b ((m + n) % 8) := by
  refine BitVec.eq_of_getLsbD_eq fun i hi => ?_
  have hsource : ((i + (8 - n)) % 8 + (8 - m)) % 8 = (i + (8 - (m + n) % 8)) % 8 := by omega
  rw [getLsbD_rotl8_source _ hn hi, getLsbD_rotl8_source _ hm (Nat.mod_lt _ (by decide)),
    getLsbD_rotl8_source _ (by omega) hi, hsource]

/-- Rotation by one moves each bit to the next, so all the bits are bit 0. -/
theorem eq_zero_or_ones_of_rotl8_one {b : Byte} (h : rotl8 b 1 = b) : b = 0x00#8 ∨ b = 0xFF#8 := by
  have hbit : ∀ i, i < 8 → b.getLsbD i = b.getLsbD 0 := by
    intro i hi
    induction i with
    | zero => rfl
    | succ i ih =>
      have hnext := getLsbD_rotl8 b (n := 1) (i := i) (by decide) (by omega)
      rw [h, Nat.mod_eq_of_lt hi] at hnext
      rw [hnext, ih (by omega)]
  cases h0 : b.getLsbD 0 with
  | false =>
    refine .inl (BitVec.eq_of_getLsbD_eq fun i hi => ?_)
    rw [hbit i hi, h0, BitVec.getLsbD_zero]
  | true =>
    refine .inr (BitVec.eq_of_getLsbD_eq fun i hi => ?_)
    rw [hbit i hi, h0, show 0xFF#8 = BitVec.allOnes 8 from rfl, BitVec.getLsbD_allOnes,
      decide_eq_true hi]

/-- The recurrence run backwards: K[i-2] from K[i-1] and K[i]. -/
theorem eq_of_nextRoundKey_eq {prev prev2 next : Byte} (h : nextRoundKey prev prev2 = next) :
    prev2 = rotl8 (next ^^^ rotl8 prev 3) 3 := by
  have hxor : next ^^^ rotl8 prev 3 = rotl8 prev2 5 := by
    rw [← h, nextRoundKey, BitVec.xor_comm, ← BitVec.xor_assoc, BitVec.xor_self, BitVec.zero_xor]
  rw [hxor]
  exact (rotl8_rotl8_rest prev2 (n := 5) (by decide)).symm

/-- A round key c repeated between two equal ones is invariant under rotation by one. -/
theorem rotl8_one_of_mirrored_middle {p c : Byte} (h4 : nextRoundKey c p = c)
    (h5 : nextRoundKey c c = p) : rotl8 c 1 = c := by
  have hp : rotl8 p 5 = c ^^^ rotl8 c 2 := by
    rw [← h5, nextRoundKey, rotl8_xor _ _ (by decide), rotl8_rotl8 _ (by decide) (by decide),
      rotl8_rotl8 _ (by decide) (by decide), rotl8_zero]
  have h32 : rotl8 c 3 = rotl8 c 2 := by
    rw [nextRoundKey, hp] at h4
    have hcancel : rotl8 c 3 ^^^ rotl8 c 2 ^^^ c = 0#8 ^^^ c := by
      rw [BitVec.xor_assoc, BitVec.xor_comm _ c, h4, BitVec.zero_xor]
    exact BitVec.xor_eq_zero_iff.1 ((BitVec.xor_left_inj c).1 hcancel)
  refine rotl8_injective (n := 2) (by decide) ?_
  exact (rotl8_rotl8 c (by decide) (by decide)).trans h32

/-- K[0] and K[1] of a schedule in which K[5] = K[2] and K[4] = K[3]: `h4` and `h5` are the
recurrence for K[4] and K[5]. -/
theorem first_roundKeys_of_mirrored_middle {k0 k1 k2 k3 : Byte} (h2 : nextRoundKey k1 k0 = k2)
    (h3 : nextRoundKey k2 k1 = k3) (h4 : nextRoundKey k3 k2 = k3)
    (h5 : nextRoundKey k3 k3 = k2) :
    (k1 = 0x00#8 ∧ k0 = 0x00#8) ∨ (k1 = 0xFF#8 ∧ k0 = 0xFF#8) := by
  obtain rfl | rfl := eq_zero_or_ones_of_rotl8_one (rotl8_one_of_mirrored_middle h4 h5)
  · obtain rfl : 0x00#8 = k2 := h5
    obtain rfl : k1 = 0x00#8 := eq_of_nextRoundKey_eq h3
    exact .inl ⟨rfl, eq_of_nextRoundKey_eq h2⟩
  · obtain rfl : 0x00#8 = k2 := h5
    obtain rfl : k1 = 0xFF#8 := eq_of_nextRoundKey_eq h3
    exact .inr ⟨rfl, eq_of_nextRoundKey_eq h2⟩

/-- Exactly two keys have a round-key set that is its own mirror. -/
theorem keySchedule_reversed_eq_self_iff (key : Block) :
    (keySchedule key).reversed = keySchedule key ↔ key = 0x0000#16 ∨ key = 0xFFFF#16 := by
  constructor
  case mp =>
    intro h
    have h4 : (keySchedule key).k4 = (keySchedule key).k3 := congrArg RoundKeys.k3 h
    have h5 : nextRoundKey (keySchedule key).k4 (keySchedule key).k3 = (keySchedule key).k2 :=
      congrArg RoundKeys.k2 h
    rw [h4] at h5
    rw [← blockOfBytes_bytes key]
    rcases first_roundKeys_of_mirrored_middle (k0 := byte1 key) (k1 := byte0 key) rfl rfl h4 h5 with
      ⟨hhigh, hlow⟩ | ⟨hhigh, hlow⟩ <;> rw [hhigh, hlow]
    · exact .inl rfl
    · exact .inr rfl
  case mpr => rintro (rfl | rfl) <;> rfl

/-- Settles O15: DEC undoes ENC by the rounds in reverse, and each is then the other's inverse. -/
theorem decryptUndoesEncrypt : Obligations.DecryptUndoesEncrypt := by
  refine ⟨fun k b => ⟨dec_enc k b, enc_dec k b⟩, fun k => ⟨?encBijective, ?decBijective⟩,
    fun k hk b => ⟨(dec_eq_enc_of_mirrored hk b).symm, ?involution⟩,
    keySchedule_reversed_eq_self_iff⟩
  case encBijective => exact Function.bijective_iff_has_inverse.2 ⟨dec k, dec_enc k, enc_dec k⟩
  case decBijective => exact Function.bijective_iff_has_inverse.2 ⟨enc k, enc_dec k, dec_enc k⟩
  case involution => rw [← dec_eq_enc_of_mirrored hk, dec_enc]

end Sys2Proof.Machine
end

section
/-! PROOFS. The completions of ENCRYPT (42_feistel.md R160) and DECRYPT (R165), with a key
loaded. -/

namespace Sys2Proof.Machine

theorem cipherCommand_with_key (o : KeyOrder) {s : State} (h : s.fce.keyValid = true) :
    cipherCommand o s = .next { s with
      fce := (s.fce.setDout (cipher o s.fce.rk s.fce.pend.pdin)).completeStatus } :=
  (cipherCommand_next o s _).2 (.inl ⟨h, rfl⟩)

theorem exec_encrypt_with_key {s : State} (h : s.fce.keyValid = true) :
    exec .encrypt s = .next { s with
      fce := (s.fce.setDout (enc s.fce.rk s.fce.pend.pdin)).completeStatus } :=
  cipherCommand_with_key .forward h

theorem exec_decrypt_with_key {s : State} (h : s.fce.keyValid = true) :
    exec .decrypt s = .next { s with
      fce := (s.fce.setDout (dec s.fce.rk s.fce.pend.pdin)).completeStatus } :=
  cipherCommand_with_key .reverse h

/-- ENCRYPT with a key loaded, from the write of its word to its completion: DIN is the operand. -/
theorem run_encrypt_with_key {s : State} (h : s.Issues 0x00000003#32)
    (hkey : s.fce.keyValid = true) :
    ∃ t, Sys2Proof.core.run 2 s = .next t ∧ t.fce.dout = enc s.fce.rk s.fce.din :=
  ⟨_, run_of_issues h (exec_encrypt_with_key (s := s.issued 0x00000003#32) hkey), rfl⟩

/-- DECRYPT with a key loaded, from the write of its word to its completion: DIN is the operand. -/
theorem run_decrypt_with_key {s : State} (h : s.Issues 0x00000004#32)
    (hkey : s.fce.keyValid = true) :
    ∃ t, Sys2Proof.core.run 2 s = .next t ∧ t.fce.dout = dec s.fce.rk s.fce.din :=
  ⟨_, run_of_issues h (exec_decrypt_with_key (s := s.issued 0x00000004#32) hkey), rfl⟩

/-- No access of the host reaches the cipher state. -/
theorem Fce.access_sameCipherState (f : Fce) (a : Access) : (f.access a).1.SameCipherState f := by
  rcases f.access_eq_self_or_writeReg a with hsame | ⟨v, r, hwrite⟩
  · rw [hsame]
    exact ⟨rfl, rfl, rfl⟩
  · rw [hwrite]
    exact f.writeReg_sameCipherState v r

theorem enc_example_B0B1 : enc (keySchedule 0xB0B1#16) 0x6162#16 = 0xB894#16 := rfl

/-- Settles O19: the two ends of the completion are the two records, the host's accesses leave the
cipher state alone, and the example is an accepted ENCRYPT with a key loaded. -/
theorem encryptWritesTheCiphertext : Obligations.EncryptWritesTheCiphertext := by
  refine ⟨fun _ => exec_encrypt_with_key, fun _ => exec_cipher_without_key (.inl rfl), rfl, rfl,
    fun f a => (f.access_sameCipherState a).2, rfl, rfl, fun s hissues hkey hrk hdin => ?worked⟩
  case worked =>
    obtain ⟨t, hrun, hdout⟩ := run_encrypt_with_key hissues hkey
    exact ⟨t, hrun, by rw [hdout, hrk, hdin, enc_example_B0B1]⟩

/-- A DECRYPT of ENCRYPT's result under the same round keys gives the block back (R165). -/
theorem exec_decrypt_of_exec_encrypt {s t u v : State} (hs : s.fce.keyValid = true)
    (hencrypt : exec .encrypt s = .next t) (hu : u.fce.keyValid = true) (hrk : u.fce.rk = s.fce.rk)
    (hdin : u.fce.pend.pdin = t.fce.dout) (hdecrypt : exec .decrypt u = .next v) :
    v.fce.dout = s.fce.pend.pdin := by
  rw [exec_encrypt_with_key hs] at hencrypt
  rw [exec_decrypt_with_key hu] at hdecrypt
  cases hencrypt
  cases hdecrypt
  simp only [Fce.completeStatus_dout, Fce.setDout_dout] at hdin ⊢
  rw [hdin, hrk, dec_enc]

/-- Settles O20: as O19, and DECRYPT undoes ENCRYPT because DEC undoes ENC; the keys for which the
two agree are those with a mirrored round-key set. -/
theorem decryptWritesThePlaintext : Obligations.DecryptWritesThePlaintext := by
  refine ⟨fun _ => exec_decrypt_with_key, fun _ => exec_cipher_without_key (.inr rfl), rfl, rfl,
    fun _ _ _ _ => exec_decrypt_of_exec_encrypt,
    fun key b hkey => dec_eq_enc_of_mirrored ((keySchedule_reversed_eq_self_iff key).2 hkey) b,
    fun s hissues hkey hrk hdin => ?worked⟩
  case worked =>
    obtain ⟨t, hrun, hdout⟩ := run_decrypt_with_key hissues hkey
    exact ⟨t, hrun, by rw [hdout, hrk, hdin, ← enc_example_B0B1, dec_enc]⟩

end Sys2Proof.Machine
end

section
/-! PROOFS. The completion of COMPRESS (43_compress.md R180) and the message that DECRYPT finds for a
target (R181). -/

namespace Sys2Proof.Machine

theorem exec_compress (s : State) : exec .compress s =
    .next { s with fce := ((s.fce.loadCipherState s.fce.pend.pkin).setDout
      (enc (keySchedule s.fce.pend.pkin) s.fce.pend.pdin)).completeStatus } := rfl

theorem exec_compress_dout {s t : State} (h : exec .compress s = .next t) :
    t.fce.dout = enc (keySchedule s.fce.pend.pkin) s.fce.pend.pdin := by
  rw [exec_compress] at h
  cases h
  rfl

/-- COMPRESS leaves the cipher state that LOAD_KEY of the same operand leaves (R180). -/
theorem exec_compress_sameCipherState_loadKey {s t v : State} (hload : exec .loadKey s = .next t)
    (hcompress : exec .compress s = .next v) : v.fce.SameCipherState t.fce := by
  rw [exec_loadKey] at hload
  rw [exec_compress] at hcompress
  cases hload
  cases hcompress
  exact ⟨rfl, rfl, rfl⟩

/-- The DOUT of COMPRESS is that of an ENCRYPT of the message accepted after LOAD_KEY of the chaining
value (R180), which finds the key loaded. -/
theorem exec_compress_dout_loadKey_encrypt {s t u v : State} (hload : exec .loadKey s = .next t)
    (hencrypt : exec .encrypt
      { t with fce := { t.fce with din := s.fce.pend.pdin }.accept (encode .encrypt) } = .next u)
    (hcompress : exec .compress s = .next v) : v.fce.dout = u.fce.dout := by
  rw [exec_loadKey] at hload
  cases hload
  rw [exec_encrypt_with_key (by simp)] at hencrypt
  cases hencrypt
  simp [exec_compress_dout hcompress]

/-- COMPRESS from the write of its word to its completion: DIN is the message and KIN the chaining
value. -/
theorem run_compress {s : State} (h : s.Issues 0x00000005#32) : Sys2Proof.core.run 2 s =
    .next { s.issued 0x00000005#32 with
      fce := (((s.fce.accept 0x00000005#32).loadCipherState s.fce.kin).setDout
        (enc (keySchedule s.fce.kin) s.fce.din)).completeStatus } :=
  run_of_issues h (exec_compress _)

/-- Settles O21: the completion is one record, its cipher state is LOAD_KEY's, which an ENCRYPT keeps,
and the example is an accepted COMPRESS. -/
theorem compressLoadsAndEncrypts : Obligations.CompressLoadsAndEncrypts := by
  refine ⟨exec_compress, rfl, rfl, fun s t u v hload hencrypt hcompress => ?loadThenEncrypt, rfl,
    fun s hissues hdin hkin herrAny hoverrun => ?worked⟩
  case loadThenEncrypt =>
    obtain ⟨hkey, hrk, hvalid⟩ := exec_compress_sameCipherState_loadKey hload hcompress
    obtain ⟨hkey', hrk', hvalid'⟩ := exec_keeps_cipherState hencrypt (by decide)
    exact ⟨hkey, hrk, hvalid, hkey.trans hkey'.symm, hrk.trans hrk'.symm, hvalid.trans hvalid'.symm,
      exec_compress_dout_loadKey_encrypt hload hencrypt hcompress⟩
  case worked =>
    refine ⟨_, run_compress hissues, ?_, hkin, Fce.statusWord_completeStatus herrAny hoverrun⟩
    simp only [Fce.completeStatus_dout, Fce.setDout_dout]
    rw [hkin, hdin, enc_example_B0B1]

/-- COMPRESS of DEC of a target under the chaining value gives the target (R181). -/
theorem exec_compress_dout_of_dec {s t : State} {target : Block}
    (hdin : s.fce.pend.pdin = dec (keySchedule s.fce.pend.pkin) target)
    (h : exec .compress s = .next t) : t.fce.dout = target := by
  rw [exec_compress_dout h, hdin, enc_dec]

theorem dec_example_1234 : dec (keySchedule 0x1234#16) 0x0000#16 = 0x1F76#16 := rfl

/-- Settles O27: ENC undoes DEC, and the example's message is DEC of its target. -/
theorem decryptFindsACompressPreimage : Obligations.DecryptFindsACompressPreimage :=
  ⟨fun _ _ _ => exec_compress_dout_of_dec, dec_example_1234, fun _ _ hdin hkin =>
    exec_compress_dout_of_dec (by rw [hdin, hkin, dec_example_1234])⟩

end Sys2Proof.Machine
end

section
/-! PROOFS. The completion of NOP (44_control.md R195). -/

namespace Sys2Proof.Machine

theorem exec_nop (s : State) :
    exec .nop s = .next { s with fce := s.fce.completeStatus } := rfl

/-- Acceptance writes no register that a host reads but CMD and STATUS (R103, R104). -/
theorem Fce.readReg_accept (v : Word) (f : Fce) {r : Reg} (hcmd : r ≠ .cmd)
    (hstatus : r ≠ .status) : (f.accept v).readReg r = f.readReg r := by
  cases r with
  | cmd => exact absurd rfl hcmd
  | status => exact absurd rfl hstatus
  | id | irqEn | din | kin | dout | key | rk03 | rk47 => rfl

/-- Acceptance of the word that CMD already reads as leaves every read but that of STATUS. -/
theorem Fce.memRead_accept_lastCmd (f : Fce) {off : Offset} (n : Nat) (hoff : off ≠ 0x08#6) :
    (f.accept f.lastCmd).memRead off n = f.memRead off n := by
  refine Fce.memRead_congr n fun r hr => ?_
  by_cases hcmd : r = .cmd
  · rw [hcmd]
    rfl
  · exact f.readReg_accept _ hcmd fun hstatus => hoff (by rw [← hr, hstatus]; rfl)

/-- NOP from the write of its word to its completion. -/
theorem run_nop {s : State} (h : s.Issues 0x00000000#32) : Sys2Proof.core.run 2 s =
    .next { s.issued 0x00000000#32 with fce := (s.fce.accept 0x00000000#32).completeStatus } :=
  run_of_issues h (exec_nop _)

/-- Settles O16: the completion is STATUS alone. At reset CMD already reads as NOP's word, so the
acceptance leaves every read but that of STATUS, and so does the completion. -/
theorem nopOnlyCompletes : Obligations.NopOnlyCompletes := by
  refine ⟨exec_nop, rfl, rfl, _, run_nop ⟨rfl, rfl, rfl⟩, ?status, fun off hoff => ?others⟩
  case status =>
    rw [Fce.memRead_status, Fce.statusWord_completeStatus rfl rfl]
    rfl
  case others =>
    have hcompletion := everyOtherWindowReadIsUnchanged .nop _ _ off 4
      (exec_nop (State.reset.issued 0x00000000#32)) (by simpa [writtenOffsets] using hoff)
    exact hcompletion.trans (Fce.reset.memRead_accept_lastCmd 4 hoff)

end Sys2Proof.Machine
end

section
/-! PROOFS. The errors of the commands: which of them a completion ends with (60_exceptions.md
R201), and that nothing but STATUS sees one (R203). -/

namespace Sys2Proof.Machine

/-- The error that a command raises on the registers `f`, by the matrix of R201. -/
def Fce.raisedBy (f : Fce) : Instr → Option ErrorKind
  | .nop | .loadKey | .deleteKey | .compress => none
  | .encrypt | .decrypt => if f.keyValid then none else some .noKeyLoaded
  | .sbox => if indexHigh f.pend.pdin = 0 then none else some .invalidInput
  | .illegal _ => some .invalidCommand

theorem Fce.raisedBy_eq_noKeyLoaded {f : Fce} {i : Instr} :
    f.raisedBy i = some .noKeyLoaded ↔ (i = .encrypt ∨ i = .decrypt) ∧ f.keyValid = false := by
  cases i <;> simp [Fce.raisedBy]

theorem Fce.raisedBy_eq_invalidInput {f : Fce} {i : Instr} :
    f.raisedBy i = some .invalidInput ↔ i = .sbox ∧ indexHigh f.pend.pdin ≠ 0 := by
  cases i <;> simp [Fce.raisedBy]

theorem Fce.raisedBy_eq_invalidCommand {f : Fce} {i : Instr} :
    f.raisedBy i = some .invalidCommand ↔ ∃ c, i = .illegal c := by
  cases i <;> simp [Fce.raisedBy]

/-- ENCRYPT and DECRYPT raise the same error, whatever the key order. -/
theorem cipherCommand_errCode {o : KeyOrder} {s t : State} (h : cipherCommand o s = .next t) :
    t.fce.errCode = (s.fce.raisedBy .encrypt).elim 0x0#4 ErrorKind.code := by
  rcases (cipherCommand_next o s t).1 h with ⟨hkey, rfl⟩ | ⟨hkey, rfl⟩ <;>
    simp [Fce.raisedBy, hkey]

theorem execSbox_errCode {s t : State} (h : execSbox s = .next t) :
    t.fce.errCode = (s.fce.raisedBy .sbox).elim 0x0#4 ErrorKind.code := by
  rcases (execSbox_next s t).1 h with ⟨hindex, rfl⟩ | ⟨hindex, rfl⟩ <;>
    simp_all [Fce.raisedBy, Fce.opDin]

/-- A completion leaves the code of the error its command raises, and 0 where it raises none. -/
theorem exec_errCode {i : Instr} {s t : State} (h : exec i s = .next t) :
    t.fce.errCode = (s.fce.raisedBy i).elim 0x0#4 ErrorKind.code := by
  cases i with
  | nop | loadKey | deleteKey | compress | illegal _ => cases h; rfl
  | encrypt => exact cipherCommand_errCode (o := .forward) h
  | decrypt => exact cipherCommand_errCode (o := .reverse) h
  | sbox => exact execSbox_errCode h

theorem ErrorKind.code_injective : Function.Injective ErrorKind.code := by
  intro e e'
  cases e <;> cases e' <;> decide

/-- The code of an error is left by the commands that raise this error, and by no other. -/
theorem exec_errCode_eq_code_iff {i : Instr} {s t : State} (h : exec i s = .next t)
    (e : ErrorKind) : t.fce.errCode = e.code ↔ s.fce.raisedBy i = some e := by
  rw [exec_errCode h]
  cases s.fce.raisedBy i with
  | none => simp [e.code_ne_zero.symm]
  | some e' => simp [ErrorKind.code_injective.eq_iff]

/-- Settles O29: a code is left where its error is raised, and the rest is what every completion
establishes of STATUS. -/
theorem eachCommandRaisesOnlyItsErrors : Obligations.EachCommandRaisesOnlyItsErrors := by
  intro i s t h
  obtain ⟨-, herr, hcode⟩ := exec_lifeCycleInv h
  exact ⟨(exec_errCode_eq_code_iff h .noKeyLoaded).trans Fce.raisedBy_eq_noKeyLoaded,
    (exec_errCode_eq_code_iff h .invalidInput).trans Fce.raisedBy_eq_invalidInput,
    (exec_errCode_eq_code_iff h .invalidCommand).trans Fce.raisedBy_eq_invalidCommand, hcode, herr⟩

/-- A completion that leaves ERR set is `raise Error` and nothing else. -/
theorem exec_raises_of_err {i : Instr} {s t : State} (h : exec i s = .next t)
    (herr : t.fce.err = true) : ∃ e, t = { s with fce := s.fce.raiseStatus e } := by
  rcases exec_writes_only h with ⟨_, _, _, _, rfl⟩ | hraise
  · simp at herr
  · exact hraise

/-- Settles O30: the error path writes STATUS alone and leaves the FCE idle, so it accepts the next
word. -/
theorem errorChangesOnlyStatus : Obligations.ErrorChangesOnlyStatus := by
  intro i s t h herr
  obtain ⟨e, rfl⟩ := exec_raises_of_err h herr
  exact ⟨rfl, fun v => Fce.memWrite_cmd_idle v rfl⟩

end Sys2Proof.Machine
end

section
/-! PROOFS. The interrupt line DONE_IE AND DONE (60_exceptions.md R210). -/

namespace Sys2Proof.Machine

theorem State.irq_eq (s : State) : s.irq = (s.fce.doneIe && s.fce.done) := rfl

theorem Fce.irq_of_done_clear {f : Fce} (h : f.done = false) : f.irq = false := by
  simp [Fce.irq, h]

theorem Fce.irq_of_doneIe_clear {f : Fce} (h : f.doneIe = false) : f.irq = false := by
  simp [Fce.irq, h]

/-- A completion sets DONE and keeps DONE_IE. -/
theorem exec_irq {i : Instr} {s t : State} (h : exec i s = .next t) : t.irq = s.fce.doneIe := by
  obtain ⟨-, hdone⟩ := exec_busy_done h
  obtain ⟨-, -, -, hie, -⟩ := everyCommandLeavesTheHostRegistersAlone i s t h
  rw [State.irq_eq, hdone, hie, Bool.and_true]

theorem Fce.memWrite_irqEn (f : Fce) (v : Word) :
    f.memWrite 0x0C#6 4 v = .ok { f with doneIe := v.getLsbD 0 } :=
  f.memWrite_reg (r := .irqEn) v rfl rfl

/-- Settles O44: the first two ways of clearing the line clear DONE, the third clears DONE_IE. -/
theorem interruptFollowsDone : Obligations.InterruptFollowsDone := by
  refine ⟨State.irq_eq, fun _ _ _ => exec_irq, fun f g v hbit hwrite => ?w1c,
    fun f g v hidle hwrite => ?accept, fun f g v hbit hwrite => ?disable⟩
  case w1c =>
    cases (f.memWrite_status v).symm.trans hwrite
    exact Fce.irq_of_done_clear (by simp [hbit])
  case accept =>
    cases (Fce.memWrite_cmd_idle v hidle).symm.trans hwrite
    exact Fce.irq_of_done_clear rfl
  case disable =>
    cases (f.memWrite_irqEn v).symm.trans hwrite
    exact ⟨Fce.irq_of_doneIe_clear hbit, rfl⟩

end Sys2Proof.Machine
end

section
/-! PROOFS. No state is stuck (93_implementation_defined.md section 4). -/

namespace Sys2Proof.Machine

theorem engineTurn_total (s : State) : ∃ t, engineTurn s = .next t := by
  cases henabled : s.engineEnabled with
  | true =>
    rw [engineTurn_of_enabled henabled]
    exact exec_total s.fce.pendingInstr s
  | false => exact ⟨s, by simp [engineTurn, henabled]⟩

theorem step_eq_serviceAccess {s : State} {a : Access} {rest : List Event}
    (h : s.agenda = .access a :: rest) :
    step s = .next ({ s with agenda := rest }.serviceAccess a) := by
  simp [step, h]

theorem step_eq_resetLine {s : State} {b : Bool} {rest : List Event}
    (h : s.agenda = .reset b :: rest) :
    step s = .next ({ s with agenda := rest }.resetLine b) := by
  simp [step, h]

/-- Settles O47, entry by entry of the agenda: an access and a change of the reset input always have
a next state, and so has a turn of the engine, because no command is refused. -/
theorem everyStepAnswersANextState : Obligations.EveryStepAnswersANextState := by
  intro s
  cases hagenda : s.agenda with
  | nil =>
    rw [step_of_agenda_nil hagenda]
    exact engineTurn_total s
  | cons e rest =>
    cases e with
    | engine =>
      rw [step_of_agenda_engine hagenda]
      exact engineTurn_total _
    | access a => exact ⟨_, step_eq_serviceAccess hagenda⟩
    | reset b => exact ⟨_, step_eq_resetLine hagenda⟩

end Sys2Proof.Machine
end

section
/-! PROOFS. The operands of a command and its completion: staged in DIN and KIN before acceptance,
read from the snapshot after it (30_encoding.md R103; 70_reset_and_hazards.md R248). -/

namespace Sys2Proof.Machine

/-- The registers with the host's next operands written to DIN and KIN. -/
abbrev Fce.withOperands (din kin : Block) (f : Fce) : Fce := { f with din := din, kin := kin }

/-- No end of ENCRYPT or DECRYPT reads or writes DIN or KIN. -/
theorem cipherCommand_withOperands {o : KeyOrder} {s t : State} (din kin : Block)
    (h : cipherCommand o s = .next t) :
    cipherCommand o { s with fce := s.fce.withOperands din kin } =
      .next { t with fce := t.fce.withOperands din kin } := by
  rw [cipherCommand_next] at h ⊢
  rcases h with ⟨hkey, rfl⟩ | ⟨hkey, rfl⟩
  · exact .inl ⟨hkey, rfl⟩
  · exact .inr ⟨hkey, rfl⟩

/-- Neither end of SBOX reads or writes DIN or KIN. -/
theorem execSbox_withOperands {s t : State} (din kin : Block) (h : execSbox s = .next t) :
    execSbox { s with fce := s.fce.withOperands din kin } =
      .next { t with fce := t.fce.withOperands din kin } := by
  rw [execSbox_next] at h ⊢
  rcases h with ⟨hindex, rfl⟩ | ⟨hindex, rfl⟩
  · exact .inl ⟨hindex, rfl⟩
  · exact .inr ⟨hindex, rfl⟩

/-- Operands staged while a command runs go through its completion unread and unchanged (R248). -/
theorem exec_withOperands {i : Instr} {s t : State} (din kin : Block) (h : exec i s = .next t) :
    exec i { s with fce := s.fce.withOperands din kin } =
      .next { t with fce := t.fce.withOperands din kin } := by
  cases i with
  | encrypt => exact cipherCommand_withOperands (o := .forward) din kin h
  | decrypt => exact cipherCommand_withOperands (o := .reverse) din kin h
  | sbox => exact execSbox_withOperands din kin h
  | nop | loadKey | deleteKey | compress | illegal _ => cases h; rfl

theorem Fce.memWrite_din (f : Fce) (v : Word) :
    f.memWrite 0x10#6 4 v = .ok { f with din := blockOfWord v } :=
  f.memWrite_reg (r := .din) v rfl rfl

theorem Fce.memWrite_kin (f : Fce) (v : Word) :
    f.memWrite 0x14#6 4 v = .ok { f with kin := blockOfWord v } :=
  f.memWrite_reg (r := .kin) v rfl rfl

/-- Settles O34: a completion reads the snapshot and not DIN or KIN, and a write to one of these
leaves the FCE idle, so the CMD write after it latches what was written. -/
theorem operandRewriteDoesNotDisturbTheCommand :
    Obligations.OperandRewriteDoesNotDisturbTheCommand :=
  ⟨fun _ _ _ din kin => exec_withOperands din kin,
    fun f v c hidle => ⟨_, _, f.memWrite_din v, Fce.memWrite_cmd_idle c hidle, rfl⟩,
    fun f v c hidle => ⟨_, _, f.memWrite_kin v, Fce.memWrite_cmd_idle c hidle, rfl⟩⟩

end Sys2Proof.Machine
end

section
/-! PROOFS. The key under which ENCRYPT and DECRYPT work after COMPRESS and after LOAD_KEY
(70_reset_and_hazards.md R247). -/

namespace Sys2Proof.Machine

/-- The state in which the command `i`, accepted with its operands just written, is pending. -/
abbrev State.acceptedWith (din kin : Block) (i : Instr) (s : State) : State :=
  { s with fce := (s.fce.withOperands din kin).accept (encode i) }

/-- With the schedule of a key in RK, an accepted ENCRYPT and an accepted DECRYPT work under that
key: acceptance writes neither RK nor KEY_VALID. -/
theorem exec_encrypt_decrypt_acceptedWith {s : State} {key : Block} (din kin : Block)
    (hvalid : s.fce.keyValid = true) (hrk : s.fce.rk = keySchedule key) :
    (∃ t, exec .encrypt (s.acceptedWith din kin .encrypt) = .next t ∧
      t.fce.dout = enc (keySchedule key) din) ∧
    ∃ t, exec .decrypt (s.acceptedWith din kin .decrypt) = .next t ∧
      t.fce.dout = dec (keySchedule key) din := by
  rw [← hrk]
  exact ⟨⟨_, exec_encrypt_with_key (s := s.acceptedWith din kin .encrypt) hvalid, rfl⟩,
    ⟨_, exec_decrypt_with_key (s := s.acceptedWith din kin .decrypt) hvalid, rfl⟩⟩

/-- COMPRESS leaves the chaining value loaded, whatever was loaded before (R180). -/
theorem exec_compress_loads {s t : State} (h : exec .compress s = .next t) :
    t.fce.keyValid = true ∧ t.fce.rk = keySchedule s.fce.pend.pkin := by
  rw [exec_compress] at h
  cases h
  exact ⟨rfl, rfl⟩

/-- Settles O28: COMPRESS leaves the schedule of the chaining value in RK, and LOAD_KEY that of its
key, with KEY_VALID set. -/
theorem compressReplacesTheLoadedKey : Obligations.CompressReplacesTheLoadedKey := by
  intro s t b k hcompress
  obtain ⟨hvalid, hrk⟩ := exec_compress_loads hcompress
  obtain ⟨hencrypt, hdecrypt⟩ := exec_encrypt_decrypt_acceptedWith b k hvalid hrk
  exact ⟨hencrypt, hdecrypt, _, exec_loadKey _, exec_encrypt_decrypt_acceptedWith b k rfl rfl⟩

end Sys2Proof.Machine
end

section
/-! PROOFS. DOUT and the cipher state between completions (70_reset_and_hazards.md R246). -/

namespace Sys2Proof.Machine

/-- DOUT and the cipher state of two register records are the same. -/
def Fce.SameResults (f g : Fce) : Prop := f.dout = g.dout ∧ f.SameCipherState g

theorem Fce.SameResults.refl (f : Fce) : f.SameResults f := ⟨rfl, rfl, rfl, rfl⟩

/-- No register write of the host reaches DOUT. -/
theorem Fce.writeReg_dout (f : Fce) (v : Word) (r : Reg) : (f.writeReg v r).dout = f.dout := by
  rcases f.writeReg_cases v r with h | ⟨-, -, h⟩ | ⟨-, -, h⟩ | ⟨-, h⟩ | ⟨-, h⟩ | ⟨-, h⟩ | ⟨-, h⟩ <;>
    simp [h]

/-- No access of the host reaches DOUT or the cipher state. -/
theorem Fce.access_sameResults (f : Fce) (a : Access) : (f.access a).1.SameResults f := by
  refine ⟨?_, f.access_sameCipherState a⟩
  rcases f.access_eq_self_or_writeReg a with hsame | ⟨v, r, hwrite⟩
  · rw [hsame]
  · rw [hwrite, f.writeReg_dout]

theorem State.serviceAccess_sameResults (a : Access) (s : State) :
    (s.serviceAccess a).fce.SameResults s.fce := by
  rcases s.serviceAccess_cases a with ⟨-, hs⟩ | ⟨-, hs⟩ <;> rw [hs]
  · exact s.fce.access_sameResults a
  · exact .refl _

/-- A step that is neither a completion nor a change of the reset input is a host access, or a turn
of an engine that is not enabled. -/
theorem step_sameResults {s t : State} (h : step s = .next t) (hcompletes : ¬ s.CompletesNext)
    (hreset : ¬ s.ResetNext) : t.fce.SameResults s.fce := by
  rcases step_cases h with ⟨hagenda, hturn⟩ | ⟨rest, hagenda, hturn⟩ | ⟨a, rest, -, rfl⟩ |
    ⟨b, rest, hagenda, -⟩
  · rcases engineTurn_cases hturn with ⟨henabled, -⟩ | ⟨-, rfl⟩
    · exact absurd ⟨henabled, .inl hagenda⟩ hcompletes
    · exact .refl _
  · rcases engineTurn_cases hturn with ⟨henabled, -⟩ | ⟨-, rfl⟩
    · exact absurd ⟨henabled, .inr (by rw [hagenda]; rfl)⟩ hcompletes
    · exact .refl _
  · exact State.serviceAccess_sameResults a { s with agenda := rest }
  · exact absurd ⟨b, by rw [hagenda]; rfl⟩ hreset

/-- Settles O50: what is left of a step without completions and resets is the host's accesses, which
reach no result; and acceptance writes CMD, PEND and STATUS only. -/
theorem resultsChangeOnlyAtCompletion : Obligations.ResultsChangeOnlyAtCompletion :=
  ⟨fun _ _ => step_sameResults,
    fun f v hidle => ⟨f.accept v, Fce.memWrite_cmd_idle v hidle, rfl, rfl, rfl, rfl⟩⟩

end Sys2Proof.Machine
end

section
/-! PROOFS. The registers at the end of reset (70_reset_and_hazards.md R240). -/

namespace Sys2Proof.Machine

theorem Fce.atResetValues_reset : Fce.reset.AtResetValues := by decide

/-- The end of an asserted reset leaves the reset registers, whatever they were. -/
theorem State.resetLine_release {s : State} (h : s.inReset = true) :
    s.resetLine false = { s with fce := Fce.reset, inReset := false } := by
  simp [State.resetLine, h]

/-- With no command pending and nothing on the agenda, the FCE waits. -/
theorem step_eq_self_of_idle {s : State} (hagenda : s.agenda = [])
    (hidle : s.engineEnabled = false) : step s = .next s := by
  simp [step_of_agenda_nil hagenda, engineTurn, hidle]

/-- Settles O55: both the state right after reset and the end of any reset hold `Fce.reset`, with
BUSY 0, so the NOP of LAST_CMD is not pending and does not run. -/
theorem endOfResetLeavesTheStatedValues : Obligations.EndOfResetLeavesTheStatedValues := by
  refine ⟨Fce.atResetValues_reset, rfl, rfl, Fce.reset.memRead_reg (r := .id) rfl rfl,
    step_eq_self_of_idle rfl rfl, fun s rest hreset hagenda => ⟨_, step_eq_resetLine hagenda, ?_⟩⟩
  rw [State.resetLine_release (s := { s with agenda := rest }) hreset]
  exact ⟨Fce.atResetValues_reset, rfl, rfl⟩

end Sys2Proof.Machine
end

section
/-! PROOFS. Which accesses have a side effect and which writes may be repeated (20_memory.md section
5). -/

namespace Sys2Proof.Machine

/-- A flag that a write to STATUS cleared stays clear, and one that it kept is kept again. -/
theorem Fce.clearStatus_clearStatus (v : Word) (f : Fce) :
    (f.clearStatus v).clearStatus v = f.clearStatus v := by
  simp [Fce.clearStatus]

/-- CMD is the one register where the same write again does something more. -/
theorem Fce.writeReg_writeReg (v : Word) (f : Fce) {r : Reg} (hr : r ≠ .cmd) :
    (f.writeReg v r).writeReg v r = f.writeReg v r := by
  cases r with
  | cmd => exact absurd rfl hr
  | status => exact f.clearStatus_clearStatus v
  | id | irqEn | din | kin | dout | key | rk03 | rk47 => rfl

/-- A write anywhere but at the offset of CMD, once taken, can be repeated freely. -/
theorem Fce.memWrite_repeat {f g : Fce} {off : Offset} {n : Nat} {v : Word} (hoff : off ≠ 0x04#6)
    (hwrite : f.memWrite off n v = .ok g) : g.memWrite off n v = .ok g := by
  cases hs : supported off n with
  | false => simp [f.memWrite_unsupported v hs] at hwrite
  | true =>
    cases hreg : regAt off with
    | none => exact g.memWrite_reserved v hs hreg
    | some r =>
      have hr : r ≠ .cmd := by
        rintro rfl
        exact hoff (offset_of_regAt hreg)
      cases (f.memWrite_reg v hs hreg).symm.trans hwrite
      rw [Fce.memWrite_reg _ v hs hreg, f.writeReg_writeReg v hr]

/-- Settles O43: none of the four offsets is that of CMD; and the first write to CMD leaves the FCE
busy, so that the second is dropped. -/
theorem readsAreFreeAndOnlyCommandWritesRepeat :
    Obligations.ReadsAreFreeAndOnlyCommandWritesRepeat := by
  refine ⟨Fce.access_read, fun f g h off v hmem hfirst hagain => ?idempotent,
    fun f g h v hidle hoverrun hfirst hagain => ?command⟩
  case idempotent =>
    have hoff : off ≠ 0x04#6 := by
      rintro rfl
      exact absurd hmem (by decide)
    cases (Fce.memWrite_repeat hoff hfirst).symm.trans hagain
    rfl
  case command =>
    cases (Fce.memWrite_cmd_idle v hidle).symm.trans hfirst
    cases (Fce.memWrite_cmd_busy v (f.accept_busy v)).symm.trans hagain
    exact ⟨rfl, hoverrun, rfl⟩

end Sys2Proof.Machine
end

section
/-! PROOFS. What can raise the interrupt line (60_exceptions.md R211). -/

namespace Sys2Proof.Machine

/-- A write to STATUS can clear DONE and never sets it. -/
theorem Fce.clearStatus_irq_low {f : Fce} (v : Word) (hlow : f.irq = false) :
    (f.clearStatus v).irq = false := by
  rw [Fce.irq, Fce.clearStatus_doneIe, Fce.clearStatus_done, ← Bool.and_assoc]
  exact Bool.and_eq_false_imp.2 fun hhigh => absurd hhigh (ne_true_of_eq_false hlow)

/-- A write to a register raises the line only by enabling it while DONE is set: a write to CMD or
STATUS sets no DONE, and the other registers are not in the line's equation. -/
theorem Fce.writeReg_raises_irq {f : Fce} {v : Word} {r : Reg} (hlow : f.irq = false)
    (hhigh : (f.writeReg v r).irq = true) :
    r = .irqEn ∧ v.getLsbD 0 = true ∧ f.done = true := by
  rcases f.writeReg_cases v r with h | ⟨-, -, h⟩ | ⟨-, -, h⟩ | ⟨-, h⟩ | ⟨hr, h⟩ | ⟨-, h⟩ | ⟨-, h⟩ <;>
    rw [h] at hhigh
  · exact absurd hhigh (ne_true_of_eq_false hlow)
  · exact absurd hhigh (ne_true_of_eq_false hlow)
  · exact absurd hhigh (ne_true_of_eq_false (Fce.irq_of_done_clear (f.accept_done v)))
  · exact absurd hhigh (ne_true_of_eq_false (Fce.clearStatus_irq_low v hlow))
  · exact ⟨hr, by simpa [Fce.irq] using hhigh⟩
  · exact absurd hhigh (ne_true_of_eq_false hlow)
  · exact absurd hhigh (ne_true_of_eq_false hlow)

theorem Fce.access_raises_irq {f : Fce} {a : Access} (hlow : f.irq = false)
    (hhigh : (f.access a).1.irq = true) :
    ∃ v, a = .write 0x0C#6 4 v ∧ v.getLsbD 0 = true ∧ f.done = true := by
  rcases f.access_cases a with hsame | ⟨off, n, v, r, rfl, hsupported, hreg, hwrite⟩
  · exact absurd (hsame ▸ hhigh) (ne_true_of_eq_false hlow)
  · obtain ⟨rfl, hbit, hdone⟩ := Fce.writeReg_raises_irq hlow (hwrite ▸ hhigh)
    obtain ⟨rfl, -⟩ := supported_iff.1 hsupported
    obtain rfl := offset_of_regAt hreg
    exact ⟨v, rfl, hbit, hdone⟩

theorem State.serviceAccess_raises_irq {s : State} {a : Access} (hlow : s.irq = false)
    (hhigh : (s.serviceAccess a).irq = true) :
    ∃ v, a = .write 0x0C#6 4 v ∧ v.getLsbD 0 = true ∧ s.fce.done = true := by
  rcases s.serviceAccess_cases a with ⟨-, hs⟩ | ⟨-, hs⟩ <;> rw [hs] at hhigh
  · exact Fce.access_raises_irq hlow hhigh
  · exact absurd hhigh (ne_true_of_eq_false hlow)

/-- The line is low at the reset values, so a change of the reset input does not raise it. -/
theorem State.resetLine_irq_low {s : State} (b : Bool) (hlow : s.irq = false) :
    (s.resetLine b).irq = false := by
  cases b with
  | true => rfl
  | false =>
    cases hreset : s.inReset with
    | true =>
      rw [State.resetLine_release hreset]
      rfl
    | false => simpa [State.resetLine, hreset, State.irq] using hlow

/-- A turn of the engine raises the line only where it is enabled. -/
theorem engineTurn_raises_irq {s t : State} (h : engineTurn s = .next t) (hlow : s.irq = false)
    (hhigh : t.irq = true) : s.engineEnabled = true := by
  rcases engineTurn_cases h with ⟨henabled, -⟩ | ⟨-, rfl⟩
  · exact henabled
  · exact absurd hhigh (ne_true_of_eq_false hlow)

/-- Settles O45, entry by entry of the agenda. -/
theorem nothingElseRaisesTheInterrupt : Obligations.NothingElseRaisesTheInterrupt := by
  intro s t hstep hlow hhigh
  rcases step_cases hstep with ⟨hagenda, hturn⟩ | ⟨rest, hagenda, hturn⟩ | ⟨a, rest, hagenda, rfl⟩ |
    ⟨b, rest, -, rfl⟩
  · exact .inl ⟨engineTurn_raises_irq hturn hlow hhigh, .inl hagenda⟩
  · have henabled := engineTurn_raises_irq (s := { s with agenda := rest }) hturn hlow hhigh
    exact .inl ⟨henabled, .inr (by rw [hagenda]; rfl)⟩
  · obtain ⟨v, rfl, hbit, hdone⟩ :=
      State.serviceAccess_raises_irq (s := { s with agenda := rest }) hlow hhigh
    exact .inr ⟨v, rest, hagenda, hbit, hdone⟩
  · have hstays := State.resetLine_irq_low (s := { s with agenda := rest }) b hlow
    exact absurd hhigh (ne_true_of_eq_false hstays)

end Sys2Proof.Machine
end

section
/-! PROOFS. The S-box as a permutation of the nibbles, with its inverse table and its fixed points
(40_sbox.md R121). -/

namespace Sys2Proof.Machine

theorem sboxLookup_eq_self_iff (n : Nibble) :
    sboxLookup n = n ↔ n ∈ [0x0#4, 0x1#4, 0x6#4, 0x7#4] := by
  revert n
  decide

/-- Settles O7: no entry stands twice in the table, and the stated inverse table is compared with it
entry by entry. -/
theorem sboxIsABijectionWithFourFixedPoints : Obligations.SboxIsABijectionWithFourFixedPoints :=
  ⟨Finite.injective_iff_bijective.1 sboxLookup_injective, by decide, sboxLookup_eq_self_iff⟩

end Sys2Proof.Machine
end

section
/-! PROOFS. A reset while a command is pending, and an access during reset (70_reset_and_hazards.md
R241). -/

namespace Sys2Proof.Machine

theorem State.resetLine_assert (s : State) :
    s.resetLine true = { s with fce := Fce.reset, inReset := true } := rfl

theorem State.engineEnabled_of_inReset {s : State} (h : s.inReset = true) :
    s.engineEnabled = false := by
  simp [State.engineEnabled, h]

/-- While reset is asserted a turn of the engine runs nothing. -/
theorem step_engine_of_inReset {s : State} {rest : List Event} (hreset : s.inReset = true)
    (h : s.agenda = .engine :: rest) : step s = .next { s with agenda := rest } := by
  have hidle := State.engineEnabled_of_inReset (s := { s with agenda := rest }) hreset
  simp [step_of_agenda_engine h, engineTurn, hidle]

/-- While reset is asserted an access is a fault and changes no register. -/
theorem step_access_of_inReset {s : State} {a : Access} {rest : List Event}
    (hreset : s.inReset = true) (h : s.agenda = .access a :: rest) :
    step s =
      .next { s with agenda := rest, answers := .fault .accessDuringReset :: s.answers } := by
  simp [step_eq_serviceAccess h, State.serviceAccess, hreset]

/-- A whole reset, with a turn of the engine and an access in it. -/
theorem run_reset_engine_access {s : State} {a : Access} {rest : List Event}
    (h : s.agenda = .reset true :: .engine :: .access a :: .reset false :: rest) :
    Sys2Proof.core.run 4 s = .next { s with
      fce := Fce.reset, inReset := false, agenda := rest,
      answers := .fault .accessDuringReset :: s.answers } := by
  rw [run_succ_of_step 3 (step_eq_resetLine h), State.resetLine_assert,
    run_succ_of_step 2 (step_engine_of_inReset rfl rfl),
    run_succ_of_step 1 (step_access_of_inReset rfl rfl),
    run_succ_of_step 0 (step_eq_resetLine rfl), State.resetLine_release rfl]
  rfl

/-- Settles O56: the reset leaves `Fce.reset`, in which BUSY is 0, whatever command was pending. -/
theorem resetAbandonsThePendingCommand : Obligations.ResetAbandonsThePendingCommand :=
  ⟨fun _ _ _ hagenda =>
      ⟨_, run_reset_engine_access hagenda, Fce.atResetValues_reset, rfl, rfl, rfl⟩,
    fun _ _ _ => step_access_of_inReset⟩

end Sys2Proof.Machine
end
